-- ==== Sys2Proof/Word.lean ====
section
/-! DEFINITION. The bit widths the spec fixes (00_scope.md R7): bytes of a frame and characters, 64-bit
payload words, 32-bit ticks. Every quantity is unsigned (R11). -/

namespace Sys2Proof

/-- One byte of a frame, or one 8-bit character (R14, R75). -/
abbrev Byte := BitVec 8

/-- A payload word `W`: 64 bits, bit 63 the most significant (R9). -/
abbrev Word := BitVec 64

/-- A reading of the tick counter, and the register `LAST_FIRE_TICK`: 32 bits, modulo 2^32 (R11, R21). -/
abbrev Tick := BitVec 32

end Sys2Proof
end

