-- ==== Sys2Proof/Config.lean ====
section
/-! DEFINITION. The configuration record (00_scope.md R8: "A model takes all of them as fields of one
configuration record"), the records the environment answers with (10_state.md R29), and the free value
that stands for the environment where no answer has been placed. -/

namespace Sys2Proof

/-- The values of the register `VCU_STATE`: a closed enumeration of three (R22). -/
inductive VcuState where
  | standby
  | discharge
  | none
deriving DecidableEq, Repr, Inhabited

/-- The values of the register `CMD_PHASE` (R23). -/
inductive CmdPhase where
  | top
  | hbConfig
deriving DecidableEq, Repr, Inhabited

/-- The selector of `ENC_HBCMD`: STANDBY or DISCHARGE only, so that NONE cannot be written down (R74, R112). -/
inductive HbSelector where
  | standby
  | discharge
deriving DecidableEq, Repr, Inhabited

/-- The six names of the BMS `state` enumeration (R70). -/
inductive BmsState where
  | init
  | standby
  | charge
  | balance
  | discharge
  | error
deriving DecidableEq, Repr, Inhabited

/-- Every value the source leaves open, one field each (R8). Field positions are bit numbers 0..63 and
identifiers are compared for equality only, so both are plain numbers; `Config.ok` (Machine/Operands.lean)
states the constraints of R8. -/
structure Config where
  /-- `P_HB_STATE_START` (D3) -/
  hbStateStart : Nat
  /-- `P_HB_STATE_END` (D3) -/
  hbStateEnd : Nat
  /-- `P_HB_SOC_START` (D3) -/
  hbSocStart : Nat
  /-- `P_HB_SOC_END` (D3) -/
  hbSocEnd : Nat
  /-- `P_DR_START` (D4) -/
  drStart : Nat
  /-- `P_DR_END` (D4) -/
  drEnd : Nat
  /-- `BMS_STATE_CODE(INIT)` (D5) -/
  codeInit : BitVec 3
  /-- `BMS_STATE_CODE(STANDBY)` (D5) -/
  codeStandby : BitVec 3
  /-- `BMS_STATE_CODE(CHARGE)` (D5) -/
  codeCharge : BitVec 3
  /-- `BMS_STATE_CODE(BALANCE)` (D5) -/
  codeBalance : BitVec 3
  /-- `BMS_STATE_CODE(DISCHARGE)` (D5) -/
  codeDischarge : BitVec 3
  /-- `BMS_STATE_CODE(ERROR)` (D5) -/
  codeError : BitVec 3
  /-- `TAG_HB_STANDBY` (D6) -/
  tagHbStandby : BitVec 1
  /-- `TAG_HB_DISCHARGE` (D6) -/
  tagHbDischarge : BitVec 1
  /-- `TAG_DREQ_ENTER` (D7) -/
  tagDreqEnter : BitVec 1
  /-- `ID_BMS_HEARTBEAT` (D8, OPEN) -/
  idBmsHeartbeat : Nat
  /-- `ID_BMS_DISCHARGE_RESPONSE` (D8, OPEN) -/
  idBmsDischargeResponse : Nat
  /-- `ID_BMS_PACK_STATUS` (D8, D35, OPEN) -/
  idBmsPackStatus : Nat
  /-- `ID_BMS_CELL_TEMPS` (D8, D35, OPEN) -/
  idBmsCellTemps : Nat
  /-- `ID_BMS_ERRORS` (D8, D35, OPEN) -/
  idBmsErrors : Nat
  /-- `ID_VCU_HEARTBEAT` (D8, D9, OPEN; may equal `idBmsHeartbeat`) -/
  idVcuHeartbeat : Nat
  /-- `ID_VCU_DISCHARGE_REQUEST` (D8, OPEN) -/
  idVcuDischargeRequest : Nat
  /-- `ID_WIDTH`: identifiers are below `2 ^ idWidth` (D8) -/
  idWidth : Nat
  /-- `FAULT_WIDTH`: fault codes are below `2 ^ faultWidth` (D17) -/
  faultWidth : Nat
  /-- `KEY_DREQ` (D11) -/
  keyDreq : Byte
  /-- `RESET_VCU_STATE` (D20, OPEN) -/
  resetVcuState : VcuState
  /-- `RESET_LAST_FIRE_TICK` (D20) -/
  resetLastFireTick : Tick
  /-- `UPDATE_TICK_IN_NONE` of decision D13 (93_implementation_defined.md U21); false is what R153 states. -/
  updateTickInNone : Bool
  /-- `UPDATE_TICK_ON_FAULT` of decision D14 (U21); true is what R152 states. -/
  updateTickOnFault : Bool
deriving DecidableEq, Repr, Inhabited

/-- The spec's defaults (R8). DESIGN CHOICE (unsafe, log entries 2 and 3): the seven OPEN identifiers and
the OPEN `RESET_VCU_STATE` have no default in the spec; the values here only make `State.reset` a concrete
state. No claim rests on them: claims quantify over the configuration. -/
def Config.default : Config where
  hbStateStart := 63
  hbStateEnd := 61
  hbSocStart := 60
  hbSocEnd := 51
  drStart := 63
  drEnd := 63
  codeInit := 0
  codeStandby := 1
  codeCharge := 2
  codeBalance := 3
  codeDischarge := 4
  codeError := 5
  tagHbStandby := 0
  tagHbDischarge := 1
  tagDreqEnter := 1
  idBmsHeartbeat := 1
  idBmsDischargeResponse := 2
  idBmsPackStatus := 3
  idBmsCellTemps := 4
  idBmsErrors := 5
  idVcuHeartbeat := 6
  idVcuDischargeRequest := 7
  idWidth := 11
  faultWidth := 32
  keyDreq := 0x72
  resetVcuState := .standby
  resetLastFireTick := 0
  updateTickInNone := false
  updateTickOnFault := true

/-- One frame as the transport hands it over or takes it: identifier, eight bytes, and how many of them
are valid (R16, R29, R30, R47). Byte 0 is the first byte of the data field (R41). -/
structure Frame where
  id : Nat
  bytes : Vector Byte 8
  len : Nat
deriving DecidableEq, Repr, Inhabited

/-- The input record of a step, one field per collaborator call (R29). Fault code 0 is the `Ok` result. -/
structure Input where
  canResetAck : Bool
  rx : Option Frame
  rxFault : Nat
  key : Option Byte
  now : Tick
  txFaultDreq : Nat
  txFaultHb : Nat
deriving DecidableEq, Repr, Inhabited

/-- An input record in which nothing happens: no acknowledge, no frame, no character, no fault, tick 0
(the omitted fields of the stimulus notation, R83). -/
def Input.idle : Input where
  canResetAck := false
  rx := Option.none
  rxFault := 0
  key := Option.none
  now := 0
  txFaultDreq := 0
  txFaultHb := 0

/-- What the loop driver does next: make one step with these answers of the environment, or reset the
block (R161, R163). -/
inductive LoopEvent where
  | iterate (inp : Input)
  | reset
deriving DecidableEq, Repr, Inhabited

/-- FREE VALUE (log entry 4): what the loop driver does, and what the environment answers, in the n-th
step for which `State` holds no placed stimulus (R16: each answer "is a free input of the step (an oracle
draw)"). It has no body: nothing can evaluate it and nothing is known of it. -/
opaque Config.freeEvent : Nat → LoopEvent

end Sys2Proof
end

