-- ==== Sys2Proof/Machine/Operands.lean ====
section
/-! DEFINITION. The operand forms of the block, as pure functions: field primitives of the 64-bit payload
word (00_scope.md R12), byte order (20_memory.md R41), the packed forms of each message
(30_encoding.md), identifiers and keys (R49, R75), and the constraints on the configuration (R8). -/

namespace Sys2Proof

/-! ### Field primitives -/

/-- `ones(w)`: the integer `2^w - 1` as a 64-bit word, for `w <= 64` (R10). -/
def ones (w : Nat) : Word := BitVec.ofNat 64 (2 ^ w - 1)

/-- `w = start - end + 1` (R60, R62). `stop` is the spec's `end`. -/
def fieldWidth (start stop : Nat) : Nat := start - stop + 1

/-- `fieldmask(start, end) = ones(w) << end` (R12). -/
def fieldmask (start stop : Nat) : Word := ones (fieldWidth start stop) <<< stop

/-- `extract(W, start, end)` (R12, R91): the field's low bit lands at bit 0; the shift amount is always
`end` (R62, R219). -/
def extractBits (w : Word) (start stop : Nat) : Word := (w &&& fieldmask start stop) >>> stop

/-- `insert(W, start, end, v)` (R12, R110): only the low `w` bits of `v` are used. -/
def insertBits (w : Word) (start stop : Nat) (v : Word) : Word :=
  (w &&& ~~~ fieldmask start stop) ||| ((v &&& ones (fieldWidth start stop)) <<< stop)

/-- `sext` of a `width`-bit value to 64 bits (R10): the top bit of the value is copied upward. -/
def signExtendFrom (width : Nat) (v : Word) : Word :=
  if v.getLsbD (width - 1) then v ||| ~~~ ones width else v

/-- `EXTRACT` with the table's signedness column (R63, D23): an entry marked signed is sign-extended. -/
def extractField (w : Word) (start stop : Nat) (signed : Bool) : Word :=
  if signed then signExtendFrom (fieldWidth start stop) (extractBits w start stop)
  else extractBits w start stop

/-- A descriptor is in range: `63 >= start >= end >= 0` (R60). -/
def descriptorOk (start stop : Nat) : Bool := decide (start ≤ 63) && decide (stop ≤ start)

/-- Byte `k` of a payload word: `W[63-8k : 56-8k]` (R41). -/
def byteOf (w : Word) (k : Nat) : Byte := w.extractLsb' (56 - 8 * k) 8

/-- A byte at the place byte `k` of a frame has in the payload word: `zext_64(b) << (56 - 8k)` (R42). -/
def byteAt (b : Byte) (k : Nat) : Word := b.setWidth 64 <<< (56 - 8 * k)

/-! ### Numbers as big-endian bytes (R14: the first byte is the most significant) -/

/-- The value `v` as `n` bytes, most significant first. -/
def beBytes : Nat → Nat → List Byte
  | 0, _ => []
  | n + 1, v => BitVec.ofNat 8 (v / 256 ^ n) :: beBytes n (v % 256 ^ n)

/-- The value of the first `n` bytes, most significant first, and the bytes after them. -/
def readBE : Nat → List Byte → Option (Nat × List Byte)
  | 0, bs => some (0, bs)
  | _ + 1, [] => none
  | n + 1, b :: bs =>
    match readBE n bs with
    | none => none
    | some (v, rest) => some (b.toNat * 256 ^ n + v, rest)

/-! ### Codec functions on words (pure: no register, no I/O, no failure; R95, R117) -/

/-- The `state` field of a BMS heartbeat word (R93). -/
def hbStateOf (cfg : Config) (w : Word) : BitVec 3 :=
  (extractBits w cfg.hbStateStart cfg.hbStateEnd).setWidth 3

/-- The `soc_percentage` field of a BMS heartbeat word, raw: not clamped (R93, R221). -/
def hbSocOf (cfg : Config) (w : Word) : BitVec 10 :=
  (extractBits w cfg.hbSocStart cfg.hbSocEnd).setWidth 10

/-- The response bit of a BMS discharge response word (R94): 0 NOT_READY, 1 READY (R71). -/
def drOf (cfg : Config) (w : Word) : BitVec 1 :=
  (extractBits w cfg.drStart cfg.drEnd).setWidth 1

/-- `ENC_BMSHB` (R114): all bits outside the two fields are zero. -/
def packHeartbeat (cfg : Config) (state : BitVec 3) (soc : BitVec 10) : Word :=
  insertBits (insertBits 0 cfg.hbStateStart cfg.hbStateEnd (state.setWidth 64))
    cfg.hbSocStart cfg.hbSocEnd (soc.setWidth 64)

/-- `ENC_BMSDR` (R115). -/
def packDischargeResponse (cfg : Config) (r : BitVec 1) : Word :=
  insertBits 0 cfg.drStart cfg.drEnd (r.setWidth 64)

/-- A command byte: the 1-bit tag inserted at bit 63, and byte 0 of the word (R67, R68, R112, R113).
DESIGN CHOICE (log entry 25): R112 and R113 write `STOREW(W, 1)[0]`, and STOREW writes the TX buffer (R111), but
no encoder has a side effect (R117); the model takes the byte STOREW would put first and leaves the buffer. -/
def commandByte (tag : BitVec 1) : Byte := byteOf (insertBits 0 63 63 (tag.setWidth 64)) 0

/-- The tag of a heartbeat selector (R72). -/
def hbTag (cfg : Config) : HbSelector → BitVec 1
  | .standby => cfg.tagHbStandby
  | .discharge => cfg.tagHbDischarge

/-- `ENC_HBCMD(sel)` (R112). -/
def hbCommandByte (cfg : Config) (sel : HbSelector) : Byte := commandByte (hbTag cfg sel)

/-- `ENC_DREQ()` (R113). -/
def dreqByte (cfg : Config) : Byte := commandByte cfg.tagDreqEnter

/-- `RENDER` (R140): NONE renders to no transmission, which is not a zero byte (R218). -/
def renderByte (cfg : Config) : VcuState → Option Byte
  | .standby => some (hbCommandByte cfg .standby)
  | .discharge => some (hbCommandByte cfg .discharge)
  | .none => none

/-- `BMS_STATE_CODE(name)` (R8, R70). -/
def stateCode (cfg : Config) : BmsState → BitVec 3
  | .init => cfg.codeInit
  | .standby => cfg.codeStandby
  | .charge => cfg.codeCharge
  | .balance => cfg.codeBalance
  | .discharge => cfg.codeDischarge
  | .error => cfg.codeError

/-- The six codes, in the order the source lists the names (R70). -/
def stateCodes (cfg : Config) : List (BitVec 3) :=
  [cfg.codeInit, cfg.codeStandby, cfg.codeCharge, cfg.codeBalance, cfg.codeDischarge, cfg.codeError]

/-! ### Keys (R75 to R77; ASCII codes: PRESUMED, log entry 12) -/

/-- `'v'` -/
def keyV : Byte := 0x76
/-- `'s'` -/
def keyS : Byte := 0x73
/-- `'d'` -/
def keyD : Byte := 0x64
/-- `'n'` -/
def keyN : Byte := 0x6E

/-! ### Port codes of the two command registers (R22, R23, D21) -/

/-- STANDBY = 0b00, DISCHARGE = 0b01, NONE = 0b10. -/
def VcuState.code : VcuState → BitVec 2
  | .standby => 0b00
  | .discharge => 0b01
  | .none => 0b10

/-- 0b11 is no value of the register (R22). -/
def VcuState.ofCode (b : BitVec 2) : Option VcuState :=
  if b = 0b00 then some .standby
  else if b = 0b01 then some .discharge
  else if b = 0b10 then some .none
  else Option.none

/-- TOP = 0, HB_CONFIG = 1. -/
def CmdPhase.code : CmdPhase → BitVec 1
  | .top => 0
  | .hbConfig => 1

/-! ### Identifiers and the constraints on the configuration -/

/-- The five received identifiers (R49). -/
def receivedIds (cfg : Config) : List Nat :=
  [cfg.idBmsHeartbeat, cfg.idBmsDischargeResponse, cfg.idBmsPackStatus, cfg.idBmsCellTemps, cfg.idBmsErrors]

/-- All seven identifiers (R8). -/
def allIds (cfg : Config) : List Nat :=
  receivedIds cfg ++ [cfg.idVcuHeartbeat, cfg.idVcuDischargeRequest]

/-- Whole bytes that hold an identifier of `ID_WIDTH` bits. -/
def idBytes (cfg : Config) : Nat := (cfg.idWidth + 7) / 8

/-- Field positions: in range, of the source's widths, and not overlapping in one message (R8, R60, R61). -/
def Config.layoutOk (cfg : Config) : Bool :=
  descriptorOk cfg.hbStateStart cfg.hbStateEnd && (fieldWidth cfg.hbStateStart cfg.hbStateEnd == 3) &&
  descriptorOk cfg.hbSocStart cfg.hbSocEnd && (fieldWidth cfg.hbSocStart cfg.hbSocEnd == 10) &&
  (decide (cfg.hbStateStart < cfg.hbSocEnd) || decide (cfg.hbSocStart < cfg.hbStateEnd)) &&
  descriptorOk cfg.drStart cfg.drEnd && (cfg.drStart == cfg.drEnd)

/-- The six state codes are pairwise distinct (R8). -/
def Config.codesOk (cfg : Config) : Bool := decide (stateCodes cfg).Nodup

/-- The two heartbeat tags are distinct (R8, R196). -/
def Config.tagsOk (cfg : Config) : Bool := cfg.tagHbStandby != cfg.tagHbDischarge

/-- Identifiers have `ID_WIDTH` bits and the received ones are pairwise distinct (R8, R49). -/
def Config.idsOk (cfg : Config) : Bool :=
  decide (receivedIds cfg).Nodup && (allIds cfg).all fun id => decide (id < 2 ^ cfg.idWidth)

/-- `KEY_DREQ` is not `'v'` (R8). -/
def Config.keysOk (cfg : Config) : Bool := cfg.keyDreq != keyV

/-- The configuration meets the constraints of R8; one that does not is refused (R196). -/
def Config.ok (cfg : Config) : Bool :=
  cfg.layoutOk && cfg.codesOk && cfg.tagsOk && cfg.idsOk && cfg.keysOk

end Sys2Proof
end

