-- ==== Sys2Proof/Syntax.lean ====
section
/-! DEFINITION. The operations of the block as syntax: one constructor per row of opcode_table.json (39).
An operand the rule names as a value is a field of the constructor; an operand the rule names as a
register, an input of the step or a frame buffer is read from the state by the meaning. -/

namespace Sys2Proof

/-- One operation of the block: "what an ISA manual would call an instruction" (R2's glossary of
00_scope.md section 7), one constructor per row of the table, in the table's order. -/
inductive Instr where
  /-- `DEC_HB` (R93): the payload word of a BMS heartbeat. -/
  | decHb (w : Word)
  /-- `DEC_DR` (R94): the payload word of a BMS discharge response. -/
  | decDr (w : Word)
  /-- `ENC_HBCMD STANDBY` (R112). -/
  | encHbcmdStandby
  /-- `ENC_HBCMD DISCHARGE` (R112). -/
  | encHbcmdDischarge
  /-- `ENC_DREQ` (R113). -/
  | encDreq
  /-- `ENC_BMSHB` (R114). -/
  | encBmshb (state : BitVec 3) (soc : BitVec 10)
  /-- `ENC_BMSDR` (R115). -/
  | encBmsdr (r : BitVec 1)
  /-- `ROUTE BMS_HEARTBEAT` (R92): the identifier is `ID_BMS_HEARTBEAT`. -/
  | routeBmsHeartbeat
  /-- `ROUTE BMS_DISCHARGE_RESPONSE` (R92). -/
  | routeBmsDischargeResponse
  /-- `ROUTE BMS_PACK_STATUS` (R92). -/
  | routeBmsPackStatus
  /-- `ROUTE BMS_CELL_TEMPS` (R92). -/
  | routeBmsCellTemps
  /-- `ROUTE BMS_ERRORS` (R92). -/
  | routeBmsErrors
  /-- `ROUTE UNKNOWN` (R92): the identifier is none of the five. -/
  | routeUnknown (id : Nat)
  /-- `ROUTE NONE` (R92): no frame pending. -/
  | routeNone
  /-- `CMD_TOP 'v'` (R131). -/
  | cmdTopV
  /-- `CMD_TOP KEY_DREQ` (R132). -/
  | cmdTopKeyDreq
  /-- `CMD_TOP other` (R133). -/
  | cmdTopOther (c : Byte)
  /-- `CMD_HBCFG 's'` (R135). -/
  | cmdHbcfgS
  /-- `CMD_HBCFG 'd'` (R136). -/
  | cmdHbcfgD
  /-- `CMD_HBCFG 'n'` (R137). -/
  | cmdHbcfgN
  /-- `CMD_HBCFG other` (R138). -/
  | cmdHbcfgOther (c : Byte)
  /-- `CMD_HBCFG none` (R139). -/
  | cmdHbcfgNone
  /-- `CMD_TOP none` (R130). -/
  | cmdTopNone
  /-- `LOADW` (R90): load the first `len` bytes of the RX frame buffer. -/
  | loadw (len : Nat)
  /-- `EXTRACT` (R91); `signed` is the table column of R63, "no" for every field in scope. -/
  | extract (w : Word) (start stop : Nat) (signed : Bool)
  /-- `CLASSIFY_STATE` (R98). -/
  | classifyState (state : BitVec 3)
  /-- `RX_PHASE` (R97): reads the inputs `rx` and `rx_fault`. -/
  | rxPhase
  /-- `INSERT` (R110). -/
  | insert (w : Word) (start stop : Nat) (v : Word)
  /-- `STOREW` (R111): store the top `len` bytes of `w` to the TX frame buffer. -/
  | storew (w : Word) (len : Nat)
  /-- `CMD_PHASE_3` (R130): reads the input `key`. -/
  | cmdPhase3
  /-- `CMD_HBCFG` (R134): the second character. -/
  | cmdHbcfg (c : Byte)
  /-- `RENDER` (R140): reads `VCU_STATE`. -/
  | render
  /-- `SCHED_CHECK`, part 1 (R150): reads the input `now` and `LAST_FIRE_TICK`. -/
  | schedCheck
  /-- `SCHED_CHECK`, part 2 (R151): reads the latched `elapsed`. -/
  | schedCheckFire
  /-- `TX_HB` (R152): reads the latched `hb_fire`. -/
  | txHb
  /-- `TX_HB NONE` (R153): the arm of `TX_HB` in which `RENDER` returned none. -/
  | txHbNone
  /-- `PASS` (R157). -/
  | pass
  /-- `PASS_RESUME` (R158). -/
  | passResume
  /-- `RESET` (R210). -/
  | reset
deriving DecidableEq, Repr

end Sys2Proof
end

