-- ==== Sys2Proof/WellFormed.lean ====
section
/-! DEFINITION. Which operations are well formed: each operand within the type its rule gives it. -/

namespace Sys2Proof

/-- Every operand is in the type the operation's rule gives it: descriptors by R60, frame lengths by R46, and
the "other" rows hold no code that another row of their table takes (R76, R77, R92). An INSERT of a value
wider than its field is admitted: R110 gives it a result, from the low `w` bits (log entry 22). -/
def Instr.wf (cfg : Config) : Instr → Bool
  | .decHb _ => true
  | .decDr _ => true
  | .encHbcmdStandby => true
  | .encHbcmdDischarge => true
  | .encDreq => true
  | .encBmshb _ _ => true
  | .encBmsdr _ => true
  | .routeBmsHeartbeat => true
  | .routeBmsDischargeResponse => true
  | .routeBmsPackStatus => true
  | .routeBmsCellTemps => true
  | .routeBmsErrors => true
  | .routeUnknown id => decide (id < 2 ^ cfg.idWidth) && !(receivedIds cfg).contains id
  | .routeNone => true
  | .cmdTopV => true
  | .cmdTopKeyDreq => true
  | .cmdTopOther c => (c != keyV) && (c != cfg.keyDreq)
  | .cmdHbcfgS => true
  | .cmdHbcfgD => true
  | .cmdHbcfgN => true
  | .cmdHbcfgOther c => (c != keyS) && (c != keyD) && (c != keyN)
  | .cmdHbcfgNone => true
  | .cmdTopNone => true
  | .loadw len => decide (len ≤ 8)
  | .extract _ start stop _ => descriptorOk start stop
  | .classifyState _ => true
  | .rxPhase => true
  | .insert _ start stop _ => descriptorOk start stop
  | .storew _ len => decide (len ≤ 8)
  | .cmdPhase3 => true
  | .cmdHbcfg _ => true
  | .render => true
  | .schedCheck => true
  | .schedCheckFire => true
  | .txHb => true
  | .txHbNone => true
  | .pass => true
  | .passResume => true
  | .reset => true

end Sys2Proof
end

