-- ==== Sys2Proof/Decode.lean ====
section
/-! DEFINITION. Decoding and encoding. What the block itself decodes (30_encoding.md R81): a received
identifier selects a ROUTE row, and the two key tables R76 and R77 select the command rows. Around these
stands the CALL CODE, the model's own byte form in which a test bench asks for one operation by itself:
a format byte (the table's "format" column), then the spec's own word for that row (bit 63 or bit 7
first), or, for the rows with no selecting encoding, an operation number and the operands.
DESIGN CHOICE (safe, log entry 5): the format bytes, the operation numbers and the operand order are the
model's; the words they carry are the spec's. -/

namespace Sys2Proof

/-! ### The block's own decoders -/

/-- The ROUTE row a received identifier selects (R81, R92). -/
def decodeIdent (cfg : Config) (id : Nat) : Instr :=
  if id = cfg.idBmsHeartbeat then .routeBmsHeartbeat
  else if id = cfg.idBmsDischargeResponse then .routeBmsDischargeResponse
  else if id = cfg.idBmsPackStatus then .routeBmsPackStatus
  else if id = cfg.idBmsCellTemps then .routeBmsCellTemps
  else if id = cfg.idBmsErrors then .routeBmsErrors
  else .routeUnknown id

/-- The ROUTE row of the input `rx` (R92). -/
def decodeRx (cfg : Config) : Option Frame → Instr
  | none => .routeNone
  | some f => decodeIdent cfg f.id

/-- The top-level key table (R76). -/
def decodeTopKey (cfg : Config) (c : Byte) : Instr :=
  if c = keyV then .cmdTopV
  else if c = cfg.keyDreq then .cmdTopKeyDreq
  else .cmdTopOther c

/-- The sub-menu key table (R77). -/
def decodeCfgKey (c : Byte) : Instr :=
  if c = keyS then .cmdHbcfgS
  else if c = keyD then .cmdHbcfgD
  else if c = keyN then .cmdHbcfgN
  else .cmdHbcfgOther c

/-- The row of the key table in force: by `CMD_PHASE` and the character taken, if any (R142). -/
def decodeKey (cfg : Config) : CmdPhase → Option Byte → Instr
  | .top, none => .cmdTopNone
  | .top, some c => decodeTopKey cfg c
  | .hbConfig, none => .cmdHbcfgNone
  | .hbConfig, some c => decodeCfgKey c

/-! ### Call codes -/

/-- Why a call code is no operation. Every constructor is safe: nothing runs. -/
inductive DecodeError where
  /-- There is no byte at all. -/
  | empty
  /-- The first byte is no format byte. -/
  | unknownFormat (b : Byte)
  /-- The code ends before its operands do. -/
  | truncated
  /-- The byte is none the block ever transmits in that message (R80). -/
  | neverProduced (b : Byte)
  /-- A packed BMS word with a bit set outside its fields (R114: they are zero). -/
  | strayBits (w : Word)
  /-- An identifier of `2^ID_WIDTH` or more (R196). -/
  | identifierRange (id : Nat)
  /-- The byte after the "no selecting encoding" format byte is no operation number. -/
  | unknownOperation (b : Byte)
  /-- A length over 8 (R46, R196). -/
  | lengthRange
  /-- A pair of bit numbers that is no descriptor (R60). -/
  | descriptorRange
  /-- A signedness byte over 1, or a 3-bit code over 7 (the call code's own padding, log entry 5). -/
  | operandRange
deriving DecidableEq, Repr

/-- The formats of the table's "format" column. -/
inductive Form where
  | bmsHeartbeat
  | bmsDischargeResponse
  | vcuHeartbeatCmd
  | vcuDischargeRequest
  | bmsHeartbeatPacked
  | bmsDischargeResponsePacked
  | ident
  | noFrame
  | keyTop
  | keyCfg
  | noCharCfg
  | noCharTop
  | function
deriving DecidableEq, Repr

/-- The format byte. -/
def Form.byte : Form → Byte
  | .bmsHeartbeat => 0x01
  | .bmsDischargeResponse => 0x02
  | .vcuHeartbeatCmd => 0x03
  | .vcuDischargeRequest => 0x04
  | .bmsHeartbeatPacked => 0x05
  | .bmsDischargeResponsePacked => 0x06
  | .ident => 0x07
  | .noFrame => 0x08
  | .keyTop => 0x09
  | .keyCfg => 0x0A
  | .noCharCfg => 0x0B
  | .noCharTop => 0x0C
  | .function => 0x0D

/-- The formats in the order of their bytes. -/
def Form.all : List Form :=
  [.bmsHeartbeat, .bmsDischargeResponse, .vcuHeartbeatCmd, .vcuDischargeRequest, .bmsHeartbeatPacked,
   .bmsDischargeResponsePacked, .ident, .noFrame, .keyTop, .keyCfg, .noCharCfg, .noCharTop, .function]

/-- The format of a format byte. -/
def Form.ofByte (b : Byte) : Option Form := Form.all.find? fun f => f.byte == b

/-- The rows with no selecting encoding, in the table's order (R81). -/
inductive FunctionName where
  | loadw
  | extract
  | classifyState
  | rxPhase
  | insert
  | storew
  | cmdPhase3
  | cmdHbcfg
  | render
  | schedCheck
  | schedCheckFire
  | txHb
  | txHbNone
  | pass
  | passResume
  | reset
deriving DecidableEq, Repr

/-- The operation number. -/
def FunctionName.byte : FunctionName → Byte
  | .loadw => 0
  | .extract => 1
  | .classifyState => 2
  | .rxPhase => 3
  | .insert => 4
  | .storew => 5
  | .cmdPhase3 => 6
  | .cmdHbcfg => 7
  | .render => 8
  | .schedCheck => 9
  | .schedCheckFire => 10
  | .txHb => 11
  | .txHbNone => 12
  | .pass => 13
  | .passResume => 14
  | .reset => 15

/-- The functions in the order of their numbers. -/
def FunctionName.all : List FunctionName :=
  [.loadw, .extract, .classifyState, .rxPhase, .insert, .storew, .cmdPhase3, .cmdHbcfg, .render,
   .schedCheck, .schedCheckFire, .txHb, .txHbNone, .pass, .passResume, .reset]

/-- The function of an operation number. -/
def FunctionName.ofByte (b : Byte) : Option FunctionName := FunctionName.all.find? fun f => f.byte == b

/-- What decoding answers: the operation and the bytes after it, or why there is none. -/
abbrev Decoded := Except DecodeError (Instr × List Byte)

/-- Take `n` bytes as one big-endian number and go on. -/
def withBE (n : Nat) (bs : List Byte) (k : Nat → List Byte → Decoded) : Decoded :=
  match readBE n bs with
  | none => .error .truncated
  | some (v, rest) => k v rest

/-- Take a 64-bit word and go on. -/
def withWord (bs : List Byte) (k : Word → List Byte → Decoded) : Decoded :=
  withBE 8 bs fun v rest => k (BitVec.ofNat 64 v) rest

/-- Take one byte and go on. -/
def withByte (bs : List Byte) (k : Byte → List Byte → Decoded) : Decoded :=
  match bs with
  | [] => .error .truncated
  | b :: rest => k b rest

/-- An operation whose operands must be in their types, refused as `e` where they are not. -/
def checked (cfg : Config) (i : Instr) (e : DecodeError) (rest : List Byte) : Decoded :=
  if i.wf cfg then .ok (i, rest) else .error e

/-- The byte of a 1-byte VCU heartbeat command (R67). -/
def decodeHbCommand (cfg : Config) (b : Byte) (rest : List Byte) : Decoded :=
  if b = hbCommandByte cfg .standby then .ok (.encHbcmdStandby, rest)
  else if b = hbCommandByte cfg .discharge then .ok (.encHbcmdDischarge, rest)
  else .error (.neverProduced b)

/-- The byte of a 1-byte VCU discharge request (R68). -/
def decodeDreq (cfg : Config) (b : Byte) (rest : List Byte) : Decoded :=
  if b = dreqByte cfg then .ok (.encDreq, rest) else .error (.neverProduced b)

/-- A packed BMS heartbeat word: `s`, `p`, and zeros (R65, R114). -/
def decodePackedHb (cfg : Config) (w : Word) (rest : List Byte) : Decoded :=
  if packHeartbeat cfg (hbStateOf cfg w) (hbSocOf cfg w) = w then
    .ok (.encBmshb (hbStateOf cfg w) (hbSocOf cfg w), rest)
  else .error (.strayBits w)

/-- A packed BMS discharge response word: `r`, and zeros (R66, R115). -/
def decodePackedDr (cfg : Config) (w : Word) (rest : List Byte) : Decoded :=
  if packDischargeResponse cfg (drOf cfg w) = w then .ok (.encBmsdr (drOf cfg w), rest)
  else .error (.strayBits w)

/-- The operands of a function (R81: these rows have no selecting encoding). -/
def decodeFunction (cfg : Config) (f : FunctionName) (bs : List Byte) : Decoded :=
  match f with
  | .loadw => withByte bs fun len rest => checked cfg (.loadw len.toNat) .lengthRange rest
  | .extract =>
    withWord bs fun w rest => withByte rest fun start rest => withByte rest fun stop rest =>
      withByte rest fun signed rest =>
        if 1 < signed.toNat then .error .operandRange
        else checked cfg (.extract w start.toNat stop.toNat (signed == 1)) .descriptorRange rest
  | .classifyState =>
    withByte bs fun st rest =>
      if 7 < st.toNat then .error .operandRange else .ok (.classifyState (st.setWidth 3), rest)
  | .rxPhase => .ok (.rxPhase, bs)
  | .insert =>
    withWord bs fun w rest => withByte rest fun start rest => withByte rest fun stop rest =>
      withWord rest fun v rest => checked cfg (.insert w start.toNat stop.toNat v) .descriptorRange rest
  | .storew =>
    withWord bs fun w rest => withByte rest fun len rest =>
      checked cfg (.storew w len.toNat) .lengthRange rest
  | .cmdPhase3 => .ok (.cmdPhase3, bs)
  | .cmdHbcfg => withByte bs fun c rest => .ok (.cmdHbcfg c, rest)
  | .render => .ok (.render, bs)
  | .schedCheck => .ok (.schedCheck, bs)
  | .schedCheckFire => .ok (.schedCheckFire, bs)
  | .txHb => .ok (.txHb, bs)
  | .txHbNone => .ok (.txHbNone, bs)
  | .pass => .ok (.pass, bs)
  | .passResume => .ok (.passResume, bs)
  | .reset => .ok (.reset, bs)

/-- What follows the format byte. -/
def decodeForm (cfg : Config) (f : Form) (bs : List Byte) : Decoded :=
  match f with
  | .bmsHeartbeat => withWord bs fun w rest => .ok (.decHb w, rest)
  | .bmsDischargeResponse => withWord bs fun w rest => .ok (.decDr w, rest)
  | .vcuHeartbeatCmd => withByte bs fun b rest => decodeHbCommand cfg b rest
  | .vcuDischargeRequest => withByte bs fun b rest => decodeDreq cfg b rest
  | .bmsHeartbeatPacked => withWord bs fun w rest => decodePackedHb cfg w rest
  | .bmsDischargeResponsePacked => withWord bs fun w rest => decodePackedDr cfg w rest
  | .ident =>
    withBE (idBytes cfg) bs fun id rest =>
      if id < 2 ^ cfg.idWidth then .ok (decodeIdent cfg id, rest) else .error (.identifierRange id)
  | .noFrame => .ok (.routeNone, bs)
  | .keyTop => withByte bs fun c rest => .ok (decodeTopKey cfg c, rest)
  | .keyCfg => withByte bs fun c rest => .ok (decodeCfgKey c, rest)
  | .noCharCfg => .ok (.cmdHbcfgNone, bs)
  | .noCharTop => .ok (.cmdTopNone, bs)
  | .function =>
    withByte bs fun b rest =>
      match FunctionName.ofByte b with
      | none => .error (.unknownOperation b)
      | some f => decodeFunction cfg f rest

/-- Decode a call code: total on any bytes, refusing by name. -/
def decode (cfg : Config) : List Byte → Decoded
  | [] => .error .empty
  | b :: bs =>
    match Form.ofByte b with
    | none => .error (.unknownFormat b)
    | some f => decodeForm cfg f bs

/-! ### Encoding -/

/-- A 64-bit word, bit 63 first (R41). -/
def wordBytes (w : Word) : List Byte := beBytes 8 w.toNat

/-- A code of format `f`. -/
def formCode (f : Form) (bs : List Byte) : List Byte := f.byte :: bs

/-- A code of the function `f`. -/
def functionCode (f : FunctionName) (bs : List Byte) : List Byte := formCode .function (f.byte :: bs)

/-- An identifier in whole bytes. -/
def identCode (cfg : Config) (id : Nat) : List Byte := formCode .ident (beBytes (idBytes cfg) id)

/-- The call code of an operation. -/
def encode (cfg : Config) : Instr → List Byte
  | .decHb w => formCode .bmsHeartbeat (wordBytes w)
  | .decDr w => formCode .bmsDischargeResponse (wordBytes w)
  | .encHbcmdStandby => formCode .vcuHeartbeatCmd [hbCommandByte cfg .standby]
  | .encHbcmdDischarge => formCode .vcuHeartbeatCmd [hbCommandByte cfg .discharge]
  | .encDreq => formCode .vcuDischargeRequest [dreqByte cfg]
  | .encBmshb st soc => formCode .bmsHeartbeatPacked (wordBytes (packHeartbeat cfg st soc))
  | .encBmsdr r => formCode .bmsDischargeResponsePacked (wordBytes (packDischargeResponse cfg r))
  | .routeBmsHeartbeat => identCode cfg cfg.idBmsHeartbeat
  | .routeBmsDischargeResponse => identCode cfg cfg.idBmsDischargeResponse
  | .routeBmsPackStatus => identCode cfg cfg.idBmsPackStatus
  | .routeBmsCellTemps => identCode cfg cfg.idBmsCellTemps
  | .routeBmsErrors => identCode cfg cfg.idBmsErrors
  | .routeUnknown id => identCode cfg id
  | .routeNone => formCode .noFrame []
  | .cmdTopV => formCode .keyTop [keyV]
  | .cmdTopKeyDreq => formCode .keyTop [cfg.keyDreq]
  | .cmdTopOther c => formCode .keyTop [c]
  | .cmdHbcfgS => formCode .keyCfg [keyS]
  | .cmdHbcfgD => formCode .keyCfg [keyD]
  | .cmdHbcfgN => formCode .keyCfg [keyN]
  | .cmdHbcfgOther c => formCode .keyCfg [c]
  | .cmdHbcfgNone => formCode .noCharCfg []
  | .cmdTopNone => formCode .noCharTop []
  | .loadw len => functionCode .loadw [BitVec.ofNat 8 len]
  | .extract w start stop signed =>
    functionCode .extract
      (wordBytes w ++ [BitVec.ofNat 8 start, BitVec.ofNat 8 stop, if signed then 1 else 0])
  | .classifyState st => functionCode .classifyState [st.setWidth 8]
  | .rxPhase => functionCode .rxPhase []
  | .insert w start stop v =>
    functionCode .insert (wordBytes w ++ [BitVec.ofNat 8 start, BitVec.ofNat 8 stop] ++ wordBytes v)
  | .storew w len => functionCode .storew (wordBytes w ++ [BitVec.ofNat 8 len])
  | .cmdPhase3 => functionCode .cmdPhase3 []
  | .cmdHbcfg c => functionCode .cmdHbcfg [c]
  | .render => functionCode .render []
  | .schedCheck => functionCode .schedCheck []
  | .schedCheckFire => functionCode .schedCheckFire []
  | .txHb => functionCode .txHb []
  | .txHbNone => functionCode .txHbNone []
  | .pass => functionCode .pass []
  | .passResume => functionCode .passResume []
  | .reset => functionCode .reset []

/-! ### The table's own words

The table gives an 8-bit word with its format, and a 64-bit word with its format; the word alone does
not name the format. DESIGN CHOICE (safe, log entry 6): an untagged 8-bit word is read in the sub-menu
table if it is one of its three keys, else in the top-level table if it is one of its two keys, else as a
heartbeat command byte if it is one, else in the top-level table; an untagged 64-bit word is a received BMS
heartbeat; a word of as many whole bytes as an identifier takes is an identifier; any other number of bits
is a call code, its first byte in bits 7..0. -/

/-- The format an untagged 8-bit word of the table is read in. -/
def tableForm (cfg : Config) (b : Byte) : Form :=
  if b = keyS ∨ b = keyD ∨ b = keyN then .keyCfg
  else if b = keyV ∨ b = cfg.keyDreq then .keyTop
  else if b = hbCommandByte cfg .standby ∨ b = hbCommandByte cfg .discharge then .vcuHeartbeatCmd
  else .keyTop

/-- The longest call code: an INSERT. -/
def longestCode : Nat := 20

/-- The first `n` bytes of a number whose first byte is its bits 7..0. -/
def leBytes : Nat → Nat → List Byte
  | 0, _ => []
  | n + 1, v => BitVec.ofNat 8 v :: leBytes n (v / 256)

/-- The call code of a table word of `nbits` bits: with zeros above `nbits`, cut off where the operation
that stands there ends. -/
def tableCode (cfg : Config) (nbits w : Nat) : List Byte :=
  if nbits = 8 then formCode (tableForm cfg (BitVec.ofNat 8 w)) [BitVec.ofNat 8 w]
  else if nbits = 64 then formCode .bmsHeartbeat (wordBytes (BitVec.ofNat 64 w))
  else if nbits = 8 * idBytes cfg then identCode cfg (w % 2 ^ nbits)
  else
    let all := leBytes longestCode (w % 2 ^ nbits)
    match decode cfg all with
    | .ok (_, rest) => all.take (all.length - rest.length)
    | .error _ => all

/-- The operation the decoder reads from a table word, with the spec's default configuration. -/
def decodeTableWord (nbits w : Nat) : Option Instr :=
  match decode Config.default (tableCode Config.default nbits w) with
  | .ok (i, _) => some i
  | .error _ => none

end Sys2Proof
end

