-- ==== Sys2Proof/Machine/State.lean ====
section
/-! DEFINITION. The state as plain data. The block's own retained state is the four registers of
10_state.md R20. Beside them stand, for one deterministic step function with no argument but the state:
the configuration (R27), what the environment has lined up (R16, R29), the frame buffers and transient
values of the current step (R26, R40) and its output record (R30). Log entry 1. -/

namespace Sys2Proof.Machine

/-! ### Why a step can stop -/

/-- The reasons the machine could stop with a fault: none. "The block has no fault outcome that stops it"
(R17); "There is no fatal/abort path in this core" (R163). Safe: nothing is claimed of a fault. -/
inductive Fault where
deriving DecidableEq, Repr

/-- The reasons an operation or a step is given no meaning. Each is safe: where it is raised nothing can be
claimed of what follows. -/
inductive Refusal where
  /-- Raised by `exec` for an operation that has no meaning yet. Safe. -/
  | notModelled (mnemonic : String)
  /-- Raised by the fetch of a step when the configuration breaks the constraints of R8 (R196). Safe. -/
  | configuration
  /-- Raised by PASS, PASS_RESUME, RX_PHASE (a received frame), by LOADW, STOREW (the operand) and by the fetch
  of a call of one of these two, for a length over 8 (R46, R196, D22). Safe. -/
  | frameLength
  /-- Raised by PASS, PASS_RESUME, RX_PHASE, and by the fetch of a ROUTE call, for a received identifier of
  `2^ID_WIDTH` or more (R196). Safe. -/
  | identifierRange
  /-- Raised by PASS, PASS_RESUME, RX_PHASE for a fault code of `2^FAULT_WIDTH` or more: it is outside the
  input type of R29 (R161, R196; log entry 11). Safe. -/
  | faultCodeRange
  /-- Raised by EXTRACT, INSERT, and by the fetch of a call of one of the two, for a descriptor outside
  `63 >= start >= end >= 0` (R60, R91, R110): no operand of the operation's type. Safe. -/
  | descriptorRange
  /-- Raised by PASS when `CMD_PHASE` is HB_CONFIG and by PASS_RESUME when it is TOP: the step is not one of
  the block's in that state (R161). Safe. -/
  | stepNotEnabled
deriving DecidableEq, Repr

/-! ### Outputs and transient values -/

/-- The routing result `rx_kind` (R30, R92). -/
inductive RxKind where
  | none
  | bmsHeartbeat
  | bmsDischargeResponse
  | unhandled
  | unknown
deriving DecidableEq, Repr, Inhabited

/-- The direction of a transport call (R181, R184). -/
inductive Direction where
  | rx
  | tx
deriving DecidableEq, Repr

/-- The message an `UNEXPECTED_ENUM` event names (R184). -/
inductive DiagMessage where
  | bmsHeartbeat
deriving DecidableEq, Repr

/-- The field an `UNEXPECTED_ENUM` event names (R184). -/
inductive DiagField where
  | state
deriving DecidableEq, Repr

/-- The closed set of diagnostic events and their arguments (R184). -/
inductive Diag where
  | transportFault (dir : Direction) (code : Nat)
  | unexpectedEnum (msg : DiagMessage) (field : DiagField) (raw : BitVec 3)
  | unrecognizedCmd (level : CmdPhase) (c : Byte)
deriving DecidableEq, Repr

/-- The output record of a step (R30). -/
structure Output where
  rxKind : RxKind
  hbState : BitVec 3
  hbSoc : BitVec 10
  hbStateReserved : Bool
  drResponse : BitVec 1
  tx : List Frame
  hbFire : Bool
  diag : List Diag
  canResetReq : Bool
deriving DecidableEq, Repr

/-- The output record at the start of a step: nothing received, nothing transmitted, nothing raised
(R157, R158; the zero of an unselected decoded field is a filler, R97, D36). -/
def Output.clear : Output where
  rxKind := .none
  hbState := 0
  hbSoc := 0
  hbStateReserved := false
  drResponse := 0
  tx := []
  hbFire := false
  diag := []
  canResetReq := false

/-- A frame buffer's bytes by index (R40), as (index, byte) pairs in one canonical form (`Memory.wf`). -/
abbrev Memory := List Host.Cell

/-- A frame buffer: bytes, and how many are valid (R40). -/
structure Buffer where
  mem : Memory
  len : Nat
deriving DecidableEq, Repr

/-- A buffer in which every byte reads as 0 and none is valid. -/
def Buffer.empty : Buffer where
  mem := []
  len := 0

/-- The values that exist only inside a step (R26), each the result of the operation named. DESIGN CHOICE
(safe, log entry 9): a place for the results of the pure operations. -/
structure Latches where
  /-- The payload word: LOADW, INSERT, ENC_BMSHB, ENC_BMSDR. -/
  word : Word
  /-- EXTRACT, extended to 64 bits (R82). -/
  field : Word
  /-- ENC_HBCMD, ENC_DREQ. -/
  byte : Byte
  /-- RENDER. -/
  rendered : Option Byte
  /-- SCHED_CHECK. -/
  elapsed : Tick
deriving DecidableEq, Repr

/-- The transient values at the start of a step. -/
def Latches.clear : Latches where
  word := 0
  field := 0
  byte := 0
  rendered := Option.none
  elapsed := 0

/-! ### The state -/

/-- One thing lined up for the block: an event of the loop driver (R161), or a test bench's call of one
operation by itself, with the answers the environment gives during it (R81: operations "other rules call";
41_codec_encode.md: packers "for test benches"). -/
inductive Stimulus where
  | loop (e : LoopEvent)
  | call (code : List Byte) (inp : Input)
deriving DecidableEq, Repr

/-- The state of the model. -/
structure State where
  /-- Register `LAST_FIRE_TICK`, 32 bits (R21). -/
  lastFireTick : Tick
  /-- Register `VCU_STATE`, three values (R22). -/
  vcuState : VcuState
  /-- Register `CMD_PHASE`, 1 bit (R23). -/
  cmdPhase : CmdPhase
  /-- Register `CAN_RESET_REQ`, 1 bit (R24). -/
  canResetReq : Bool
  /-- The configuration record: constant (R8, R27, R53). -/
  cfg : Config
  /-- What is lined up, next first (R16, R28, R29). -/
  stim : List Stimulus
  /-- How many free events have been drawn (MODEL's own field, log entry 4). -/
  draws : Nat
  /-- The input record of the current step (R29). -/
  inp : Input
  /-- The RX frame buffer (R40, R26). -/
  rxBuf : Buffer
  /-- The TX frame buffer (R40). -/
  txBuf : Buffer
  /-- The transient values of the current step (R26). -/
  latch : Latches
  /-- The output record of the last step (R30). -/
  out : Output
deriving DecidableEq, Repr

/-- The machine right after reset under the configuration `cfg`, with nothing lined up: the four registers
as R31 and R210 give them, and nothing in the fields that hold no retained state. -/
def State.resetWith (cfg : Config) : State where
  lastFireTick := cfg.resetLastFireTick
  vcuState := cfg.resetVcuState
  cmdPhase := .top
  canResetReq := false
  cfg := cfg
  stim := []
  draws := 0
  inp := Input.idle
  rxBuf := Buffer.empty
  txBuf := Buffer.empty
  latch := Latches.clear
  out := Output.clear

/-- The machine right after reset, under the spec's defaults (log entries 2, 3). -/
def State.reset : State := State.resetWith Config.default

/-! ### Field updates (their lemmas are in Laws/State.lean) -/

/-- `LAST_FIRE_TICK <- v`. -/
def State.withLastFireTick (s : State) (v : Tick) : State := { s with lastFireTick := v }

/-- `VCU_STATE <- v`. -/
def State.withVcuState (s : State) (v : VcuState) : State := { s with vcuState := v }

/-- `CMD_PHASE <- v`. -/
def State.withCmdPhase (s : State) (v : CmdPhase) : State := { s with cmdPhase := v }

/-- `CAN_RESET_REQ <- v`. -/
def State.withCanResetReq (s : State) (v : Bool) : State := { s with canResetReq := v }

/-- A new input record. -/
def State.withInp (s : State) (v : Input) : State := { s with inp := v }

/-- New RX buffer contents. -/
def State.withRxBuf (s : State) (v : Buffer) : State := { s with rxBuf := v }

/-- New TX buffer contents. -/
def State.withTxBuf (s : State) (v : Buffer) : State := { s with txBuf := v }

/-- New transient values. -/
def State.withLatch (s : State) (v : Latches) : State := { s with latch := v }

/-- A new output record. -/
def State.withOut (s : State) (v : Output) : State := { s with out := v }

end Sys2Proof.Machine
end

