-- ==== Sys2Proof/Machine/Flags.lean ====
section
/-! DEFINITION. The block's flags and conditions: its one status flag `CAN_RESET_REQ` (10_state.md R33)
and the three conditions a step computes: `hb_state_reserved` (R98), `elapsed` and `hb_fire` (R150, R151).
There are no condition codes and no arithmetic flags. -/

namespace Sys2Proof.Machine

/-- `CLASSIFY_STATE` (R98): 1 exactly for a code that is none of the six. -/
def stateReserved (cfg : Config) (st : BitVec 3) : Bool := !(stateCodes cfg).contains st

/-- `elapsed = (now - LAST_FIRE_TICK) mod 2^32`, unsigned (R150). -/
def elapsedTicks (now last : Tick) : Tick := now - last

/-- `hb_fire = (elapsed > 1000)`, unsigned and strict (R151, C3). -/
def fires (elapsed : Tick) : Bool := decide (1000 < elapsed.toNat)

/-- Phase 1 of a PASS: the acknowledge clears `CAN_RESET_REQ` (R186). -/
def acknowledge (s : State) : State :=
  if s.inp.canResetAck then s.withCanResetReq false else s

end Sys2Proof.Machine
end

