-- ==== Sys2Proof/Machine/Ops.lean ====
section
/-! DEFINITION. The named operations over frame buffers, registers, inputs and outputs that the meanings
share: buffer access (00_scope.md R14), LOADW and STOREW on buffers, failure handling (60_exceptions.md
R181, R184: the block's only form of exception; there is no trap entry and no return, R185, R189), transmit,
the checks of R196, and the fetch of a step (43_scheduler_pass.md R161). -/

namespace Sys2Proof.Machine

/-- The outcome of an operation. -/
abbrev Result := Host.Outcome State Fault Refusal

/-! ### Frame buffers -/

/-- What an index no entry lists reads as: zero ("unused trailing bytes are zero-filled", R42, R43). -/
def Memory.blank : Byte := 0

/-- The byte at index `k`. -/
def Memory.read (m : Memory) (k : Nat) : Byte :=
  match m with
  | [] => Memory.blank
  | (a, b) :: rest => if a = k then b else Memory.read rest k

/-- List a byte at index `k`, in front of the first greater index. -/
def Memory.insertCell (m : Memory) (k : Nat) (v : Byte) : Memory :=
  match m with
  | [] => [(k, v)]
  | (a, b) :: rest => if k < a then (k, v) :: (a, b) :: rest else (a, b) :: Memory.insertCell rest k v

/-- Write the byte at index `k`: the old entry goes, and the new one is listed unless it is blank. -/
def Memory.write (m : Memory) (k : Nat) (v : Byte) : Memory :=
  let others := m.filter fun c => c.1 != k
  if v = Memory.blank then others else Memory.insertCell others k v

/-- Indices strictly rising from `lo` and below 8, no entry blank. -/
def Memory.wfFrom (lo : Nat) : Memory → Bool
  | [] => true
  | (a, b) :: rest => decide (lo ≤ a) && decide (a < 8) && (b != Memory.blank) && Memory.wfFrom (a + 1) rest

/-- The canonical form of a frame buffer: strictly rising indices 0..7 (R14), no entry equal to what an
unlisted index reads as. -/
def Memory.wf (m : Memory) : Bool := Memory.wfFrom 0 m

/-- Bytes `k .. k+n-1`, byte `k` first: `MemRead(buf, k, n)` as its bytes (R14). -/
def Memory.readBytes (m : Memory) (k : Nat) : Nat → List Byte
  | 0 => []
  | n + 1 => m.read k :: Memory.readBytes m (k + 1) n

/-- Write bytes at `k` onward, first byte at `k`: `MemWrite(buf, k, n, v)` with `v` as its bytes (R14). -/
def Memory.writeBytes (m : Memory) (k : Nat) : List Byte → Memory
  | [] => m
  | b :: bs => Memory.writeBytes (m.write k b) (k + 1) bs

/-- The eight bytes of a buffer. -/
def Memory.toBytes (m : Memory) : Vector Byte 8 :=
  #v[m.read 0, m.read 1, m.read 2, m.read 3, m.read 4, m.read 5, m.read 6, m.read 7]

/-- The RX buffer after `RecvFrame` has delivered a frame: all eight bytes and the length (R47). -/
def Buffer.receive (b : Buffer) (f : Frame) : Buffer :=
  { mem := b.mem.writeBytes 0 f.bytes.toList, len := f.len }

/-- The frame a TX buffer holds, under an identifier (R47). -/
def Buffer.toFrame (b : Buffer) (id : Nat) : Frame := { id := id, bytes := b.mem.toBytes, len := b.len }

/-- `LOADW` on a buffer (R90): `W <- W | (zext_64(MemRead(RX, k, 1)) << (56 - 8k))` for k in 0 .. len-1. -/
def loadWord (m : Memory) : Nat → Word
  | 0 => 0
  | k + 1 => loadWord m k ||| byteAt (m.read k) k

/-- The first `n` rounds of STOREW's loop (R111): byte `k` of `W` where `k < len`, else 0. -/
def storeRounds (w : Word) (len : Nat) (m : Memory) : Nat → Memory
  | 0 => m
  | k + 1 => (storeRounds w len m k).write k (if k < len then byteOf w k else 0)

/-- `STOREW` on a buffer (R111): all eight bytes are written, `len` are valid. -/
def storeWord (b : Buffer) (w : Word) (len : Nat) : Buffer :=
  { mem := storeRounds w len b.mem 8, len := len }

/-! ### Outputs and failures -/

/-- `raise Diag(event)`: append to the step's list; nothing else changes (R15, R184). -/
def raiseDiag (d : Diag) (s : State) : State := s.withOut { s.out with diag := s.out.diag ++ [d] }

/-- A transport call answered `code` (R181): 0 is `Ok` and does nothing; any other code sets
`CAN_RESET_REQ` and raises the event; the step goes on. -/
def transportResult (dir : Direction) (code : Nat) (s : State) : State :=
  if code = 0 then s else raiseDiag (.transportFault dir code) (s.withCanResetReq true)

/-- `XmitFrame` of the TX buffer under `id`: append the frame to `tx` (R16, R160). -/
def transmit (id : Nat) (s : State) : State :=
  s.withOut { s.out with tx := s.out.tx ++ [s.txBuf.toFrame id] }

/-- `frame <- (id, STOREW(zext_64(byte) << 56, 1), 1)`, handed to `XmitFrame` (R132, R152). -/
def transmitByte (id : Nat) (byte : Byte) (s : State) : State :=
  transmit id (s.withTxBuf (storeWord s.txBuf (byteAt byte 0) 1))

/-- The start of a PASS or a PASS_RESUME: the outputs are recomputed and nothing transient is retained
(R26, R30, R157, R158). -/
def beginStep (s : State) : State :=
  (((s.withOut Output.clear).withLatch Latches.clear).withRxBuf Buffer.empty).withTxBuf Buffer.empty

/-- The end of a step: `can_reset_req <- CAN_RESET_REQ` (R157, R158). -/
def publish (s : State) : State := s.withOut { s.out with canResetReq := s.canResetReq }

/-! ### Latches -/

/-- The payload word of the step. -/
def latchWord (w : Word) (s : State) : State := s.withLatch { s.latch with word := w }

/-- The field EXTRACT returned. -/
def latchField (v : Word) (s : State) : State := s.withLatch { s.latch with field := v }

/-- The command byte an encoder returned. -/
def latchByte (b : Byte) (s : State) : State := s.withLatch { s.latch with byte := b }

/-- `rx_kind <- kind`. -/
def routeTo (kind : RxKind) (s : State) : State := s.withOut { s.out with rxKind := kind }

/-! ### Refused inputs (R196) -/

/-- Why an input record is outside the types of R29, if it is. -/
def inputRefusal (cfg : Config) (inp : Input) : Option Refusal :=
  if (inp.rx.map Frame.len).any (fun n => decide (8 < n)) then some .frameLength
  else if (inp.rx.map Frame.id).any (fun i => decide (2 ^ cfg.idWidth ≤ i)) then some .identifierRange
  else if 2 ^ cfg.faultWidth ≤ inp.rxFault ∨ 2 ^ cfg.faultWidth ≤ inp.txFaultDreq ∨
      2 ^ cfg.faultWidth ≤ inp.txFaultHb then some .faultCodeRange
  else none

/-- An operation that takes the input record: refused outside the types of R29. -/
def withTypedInput (s : State) (f : State → State) : Result :=
  match inputRefusal s.cfg s.inp with
  | some r => .refused r
  | none => .next (f s)

/-! ### Fetch -/

/-- The step `CMD_PHASE` selects (R161). -/
def selectStep : CmdPhase → Instr
  | .top => .pass
  | .hbConfig => .passResume

/-- What an event of the loop driver runs, and the state it runs in. -/
def acceptEvent (e : LoopEvent) (s : State) : Option Instr × State :=
  match e with
  | .iterate inp => (some (selectStep s.cmdPhase), s.withInp inp)
  | .reset => (some .reset, s)

/-- The refusal the spec gives a call whose operand is outside its type (R46, R60, R196). The other codes ask
for no operation at all, so there is nothing to refuse. -/
def callRefusal : DecodeError → Option Refusal
  | .lengthRange => some .frameLength
  | .identifierRange _ => some .identifierRange
  | .descriptorRange => some .descriptorRange
  | .empty => none
  | .unknownFormat _ => none
  | .truncated => none
  | .neverProduced _ => none
  | .strayBits _ => none
  | .unknownOperation _ => none
  | .operandRange => none

/-- The operation a call code asks for, if it asks for one: the operation must fill the code. -/
def decodeCall (cfg : Config) (code : List Byte) : Except Refusal (Option Instr) :=
  match decode cfg code with
  | .ok (i, []) => .ok (some i)
  | .ok (_, _ :: _) => .ok none
  | .error e =>
    match callRefusal e with
    | some r => .error r
    | none => .ok none

/-- What a step runs next, if anything, and the state it runs in: the next stimulus, or a free event of the
loop driver where none is lined up (R16, R161, R163). A configuration outside R8 is refused (R196).
DESIGN CHOICE (safe, log entry 5): a call code that asks for no operation is taken off the line-up and nothing
runs; the block "has no trap" (R80) and does nothing but its operations. -/
def fetch (s : State) : Except Refusal (Option Instr × State) :=
  if s.cfg.ok then
    match s.stim with
    | [] => .ok (acceptEvent (Config.freeEvent s.draws) { s with draws := s.draws + 1 })
    | .loop e :: rest => .ok (acceptEvent e { s with stim := rest })
    | .call code inp :: rest =>
      match decodeCall s.cfg code with
      | .ok (some i) => .ok (some i, { s with stim := rest, inp := inp })
      | .ok none => .ok (none, { s with stim := rest })
      | .error r => .error r
  else .error .configuration

end Sys2Proof.Machine
end

