-- ==== Sys2Proof/Machine/CodecDecode.lean ====
section
/-! DEFINITION. The decode family (40_codec_decode.md): LOADW, EXTRACT, ROUTE, DEC_HB, DEC_DR,
CLASSIFY_STATE, RX_PHASE. Every operation but RX_PHASE is pure: it touches no register (R32). -/

namespace Sys2Proof.Machine

/-- `LOADW` (R90): the word of the first `len` bytes of the RX frame buffer. DESIGN CHOICE (log entry 26): called by
itself it reads the buffer as the state holds it, not the `rx` of its own input record, for any `len` up to 8. -/
def loadw (len : Nat) (s : State) : State := latchWord (loadWord s.rxBuf.mem len) s

/-- `DEC_HB` (R93): both fields, raw. -/
def decHb (w : Word) (s : State) : State :=
  s.withOut { s.out with hbState := hbStateOf s.cfg w, hbSoc := hbSocOf s.cfg w }

/-- `DEC_DR` (R94). -/
def decDr (w : Word) (s : State) : State := s.withOut { s.out with drResponse := drOf s.cfg w }

/-- `CLASSIFY_STATE` (R98). -/
def classifyState (st : BitVec 3) (s : State) : State :=
  s.withOut { s.out with hbStateReserved := stateReserved s.cfg st }

/-- `ROUTE` by identifier (R92). -/
def routeId (cfg : Config) (id : Nat) : RxKind :=
  if id = cfg.idBmsHeartbeat then .bmsHeartbeat
  else if id = cfg.idBmsDischargeResponse then .bmsDischargeResponse
  else if id = cfg.idBmsPackStatus ∨ id = cfg.idBmsCellTemps ∨ id = cfg.idBmsErrors then .unhandled
  else .unknown

/-- `ROUTE(rx)` (R92); the length plays no part. -/
def routeRx (cfg : Config) : Option Frame → RxKind
  | none => .none
  | some f => routeId cfg f.id

/-- The decoded outputs before a frame is decoded: 0 (R97). -/
def clearDecoded (s : State) : State :=
  s.withOut { s.out with hbState := 0, hbSoc := 0, hbStateReserved := false, drResponse := 0 }

/-- `RecvFrame` leaves its frame in the RX buffer. DESIGN CHOICE (log entry 26): the model fills the buffer where
the frame is about to be loaded, so a frame of another kind never stands there. -/
def receiveFrame (f : Frame) (s : State) : State := s.withRxBuf (s.rxBuf.receive f)

/-- The heartbeat arm of RX_PHASE (R97): load, decode, classify, report a reserved code. -/
def rxHeartbeat (f : Frame) (s : State) : State :=
  let s := loadw f.len (receiveFrame f s)
  let s := decHb s.latch.word s
  let s := classifyState s.out.hbState s
  if s.out.hbStateReserved then raiseDiag (.unexpectedEnum .bmsHeartbeat .state s.out.hbState) s else s

/-- The discharge-response arm of RX_PHASE (R97). -/
def rxDischargeResponse (f : Frame) (s : State) : State :=
  let s := loadw f.len (receiveFrame f s)
  decDr s.latch.word s

/-- `RX_PHASE` (R97): the receive fault, ROUTE, then the arm `rx_kind` selects; a frame of another kind is
not loaded at all. A fault does not stop the frame from being decoded (D16). DESIGN CHOICE (log entry 26): a frame
that is not loaded leaves the RX buffer as it was. -/
def rxPhase (s : State) : State :=
  let s := transportResult .rx s.inp.rxFault s
  let s := clearDecoded (routeTo (routeRx s.cfg s.inp.rx) s)
  match s.inp.rx, s.out.rxKind with
  | some f, .bmsHeartbeat => rxHeartbeat f s
  | some f, .bmsDischargeResponse => rxDischargeResponse f s
  | _, _ => s

/-! ### Meanings -/

/-- DEC_HB (R93). -/
def execDecHb (w : Word) (s : State) : Result := .next (decHb w s)

/-- DEC_DR (R94). -/
def execDecDr (w : Word) (s : State) : Result := .next (decDr w s)

/-- ROUTE BMS_HEARTBEAT (R92). -/
def execRouteBmsHeartbeat (s : State) : Result := .next (routeTo .bmsHeartbeat s)

/-- ROUTE BMS_DISCHARGE_RESPONSE (R92). -/
def execRouteBmsDischargeResponse (s : State) : Result := .next (routeTo .bmsDischargeResponse s)

/-- ROUTE BMS_PACK_STATUS (R92): unhandled, payload ignored (R69). -/
def execRouteBmsPackStatus (s : State) : Result := .next (routeTo .unhandled s)

/-- ROUTE BMS_CELL_TEMPS (R92): unhandled, payload ignored (R69). -/
def execRouteBmsCellTemps (s : State) : Result := .next (routeTo .unhandled s)

/-- ROUTE BMS_ERRORS (R92): unhandled, payload ignored (R69). -/
def execRouteBmsErrors (s : State) : Result := .next (routeTo .unhandled s)

/-- ROUTE UNKNOWN (R92): no diagnostic, no state change (D18). -/
def execRouteUnknown (_id : Nat) (s : State) : Result := .next (routeTo .unknown s)

/-- ROUTE NONE (R92). -/
def execRouteNone (s : State) : Result := .next (routeTo .none s)

/-- LOADW (R90); a length over 8 is outside the operand type and refused (R196). -/
def execLoadw (len : Nat) (s : State) : Result :=
  if len ≤ 8 then .next (loadw len s) else .refused .frameLength

/-- EXTRACT (R91, R63); a pair that is no descriptor is outside the operand type (R60). -/
def execExtract (w : Word) (start stop : Nat) (signed : Bool) (s : State) : Result :=
  if descriptorOk start stop then .next (latchField (extractField w start stop signed) s)
  else .refused .descriptorRange

/-- CLASSIFY_STATE (R98). -/
def execClassifyState (st : BitVec 3) (s : State) : Result := .next (classifyState st s)

/-- RX_PHASE (R97). DESIGN CHOICE (log entry 24): called by itself it is refused outside the types of R29, as a
step is. -/
def execRxPhase (s : State) : Result := withTypedInput s rxPhase

end Sys2Proof.Machine
end

