-- ==== Sys2Proof/Machine/CodecEncode.lean ====
section
/-! DEFINITION. The encode family (41_codec_encode.md): INSERT, STOREW, ENC_HBCMD, ENC_DREQ, ENC_BMSHB,
ENC_BMSDR. Pure: no register is read or written (R32, R117). DESIGN CHOICE (log entry 25): only STOREW called by
itself leaves its bytes in the TX buffer; the command encoders take byte 0 of their word and write no buffer. -/

namespace Sys2Proof.Machine

/-- ENC_HBCMD STANDBY (R112). -/
def execEncHbcmdStandby (s : State) : Result := .next (latchByte (hbCommandByte s.cfg .standby) s)

/-- ENC_HBCMD DISCHARGE (R112). -/
def execEncHbcmdDischarge (s : State) : Result := .next (latchByte (hbCommandByte s.cfg .discharge) s)

/-- ENC_DREQ (R113). -/
def execEncDreq (s : State) : Result := .next (latchByte (dreqByte s.cfg) s)

/-- ENC_BMSHB (R114): every code and every raw value is accepted. -/
def execEncBmshb (state : BitVec 3) (soc : BitVec 10) (s : State) : Result :=
  .next (latchWord (packHeartbeat s.cfg state soc) s)

/-- ENC_BMSDR (R115). -/
def execEncBmsdr (r : BitVec 1) (s : State) : Result := .next (latchWord (packDischargeResponse s.cfg r) s)

/-- INSERT (R110): a value wider than the field gives its low bits; a pair that is no descriptor is outside
the operand type (R60). -/
def execInsert (w : Word) (start stop : Nat) (v : Word) (s : State) : Result :=
  if descriptorOk start stop then .next (latchWord (insertBits w start stop v) s)
  else .refused .descriptorRange

/-- STOREW (R111); a length over 8 is outside the operand type (R46, R196). -/
def execStorew (w : Word) (len : Nat) (s : State) : Result :=
  if len ≤ 8 then .next (s.withTxBuf (storeWord s.txBuf w len)) else .refused .frameLength

end Sys2Proof.Machine
end

