-- ==== Sys2Proof/Machine/VcuCommand.lean ====
section
/-! DEFINITION. The Command Interpreter and the VCU State Machine (42_vcu_command.md): CMD_TOP, CMD_HBCFG,
CMD_PHASE_3, RENDER. -/

namespace Sys2Proof.Machine

/-- The `'v'` row (R131): `CMD_PHASE <- HB_CONFIG`. -/
def openSubmenu (s : State) : State := s.withCmdPhase .hbConfig

/-- The `KEY_DREQ` row (R132): encode, transmit once, take the transport's answer; no retry. -/
def dischargeRequest (s : State) : State :=
  let s := latchByte (dreqByte s.cfg) s
  transportResult .tx s.inp.txFaultDreq (transmitByte s.cfg.idVcuDischargeRequest s.latch.byte s)

/-- An unrecognised key (R133, R138, R183): the diagnostic and nothing else. -/
def unrecognised (level : CmdPhase) (c : Byte) (s : State) : State := raiseDiag (.unrecognizedCmd level c) s

/-- `CMD_TOP(c)` (R131 to R133). -/
def cmdTop (c : Byte) (s : State) : State :=
  if c = keyV then openSubmenu s
  else if c = s.cfg.keyDreq then dischargeRequest s
  else unrecognised .top c s

/-- `CMD_PHASE_3(key)` (R130). -/
def cmdPhase3 (s : State) : State :=
  match s.inp.key with
  | none => s
  | some c => cmdTop c s

/-- A recognised second key (R135 to R137): the mode is written and the sub-menu is left. -/
def setMode (m : VcuState) (s : State) : State := (s.withVcuState m).withCmdPhase .top

/-- An unrecognised second key (R138): diagnostic, `VCU_STATE` unchanged, the sub-menu is left. -/
def leaveSubmenu (c : Byte) (s : State) : State := (unrecognised .hbConfig c s).withCmdPhase .top

/-- `CMD_HBCFG(c)` (R134). -/
def cmdHbcfg (c : Byte) (s : State) : State :=
  if c = keyS then setMode .standby s
  else if c = keyD then setMode .discharge s
  else if c = keyN then setMode .none s
  else leaveSubmenu c s

/-- `RENDER()` (R140): reads `VCU_STATE`, writes no register. -/
def render (s : State) : State := s.withLatch { s.latch with rendered := renderByte s.cfg s.vcuState }

/-! ### Meanings. An operation called by itself has the effect of its rule in either `CMD_PHASE`; which one
runs in a step of the block is the step's choice (log entry 10). -/

/-- CMD_TOP 'v' (R131). -/
def execCmdTopV (s : State) : Result := .next (openSubmenu s)

/-- CMD_TOP KEY_DREQ (R132). DESIGN CHOICE (log entry 24): called by itself it takes any fault code, one of
`2^FAULT_WIDTH` or more included, which R196 refuses in a step. -/
def execCmdTopKeyDreq (s : State) : Result := .next (dischargeRequest s)

/-- CMD_TOP other (R133). -/
def execCmdTopOther (c : Byte) (s : State) : Result := .next (unrecognised .top c s)

/-- CMD_HBCFG 's' (R135). -/
def execCmdHbcfgS (s : State) : Result := .next (setMode .standby s)

/-- CMD_HBCFG 'd' (R136). -/
def execCmdHbcfgD (s : State) : Result := .next (setMode .discharge s)

/-- CMD_HBCFG 'n' (R137). -/
def execCmdHbcfgN (s : State) : Result := .next (setMode .none s)

/-- CMD_HBCFG other (R138). -/
def execCmdHbcfgOther (c : Byte) (s : State) : Result := .next (leaveSubmenu c s)

/-- CMD_HBCFG none (R139): nothing happens; the block stays suspended. -/
def execCmdHbcfgNone (s : State) : Result := .next s

/-- CMD_TOP none (R130): nothing happens. -/
def execCmdTopNone (s : State) : Result := .next s

/-- CMD_PHASE_3 (R130). DESIGN CHOICE (log entry 24): called by itself it takes any fault code, as
CMD_TOP KEY_DREQ. -/
def execCmdPhase3 (s : State) : Result := .next (cmdPhase3 s)

/-- CMD_HBCFG (R134). -/
def execCmdHbcfg (c : Byte) (s : State) : Result := .next (cmdHbcfg c s)

/-- RENDER (R140). -/
def execRender (s : State) : Result := .next (render s)

end Sys2Proof.Machine
end

