-- ==== Sys2Proof/Machine/Scheduler.lean ====
section
/-! DEFINITION. The Heartbeat Scheduler (43_scheduler_pass.md R150 to R153): SCHED_CHECK and TX_HB. -/

namespace Sys2Proof.Machine

/-- `elapsed <- now -_32 LAST_FIRE_TICK` (R150). -/
def schedCheck (s : State) : State :=
  s.withLatch { s.latch with elapsed := elapsedTicks s.inp.now s.lastFireTick }

/-- `hb_fire <- (elapsed > 1000)` (R151). -/
def schedFire (s : State) : State := s.withOut { s.out with hbFire := fires s.latch.elapsed }

/-- `LAST_FIRE_TICK <- now`, where the condition holds. -/
def stampIf (c : Bool) (s : State) : State := if c then s.withLastFireTick s.inp.now else s

/-- The tick is written after a transmission answered `code`: always by R152 (D14); `UPDATE_TICK_ON_FAULT`
is D14's Boolean for the other reading. -/
def stampsOn (cfg : Config) (code : Nat) : Bool := decide (code = 0) || cfg.updateTickOnFault

/-- TX_HB's arm for a rendered byte (R152): transmit, `LAST_FIRE_TICK <- now`, the transport's answer. -/
def sendHeartbeat (byte : Byte) (s : State) : State :=
  let s := transmitByte s.cfg.idVcuHeartbeat byte s
  transportResult .tx s.inp.txFaultHb (stampIf (stampsOn s.cfg s.inp.txFaultHb) s)

/-- TX_HB's arm for `none` (R153): nothing is transmitted and `LAST_FIRE_TICK` is not written;
`UPDATE_TICK_IN_NONE` is D13's Boolean for the other reading. -/
def skipHeartbeat (s : State) : State := stampIf s.cfg.updateTickInNone s

/-- TX_HB after RENDER (R152, R153). -/
def txRendered (s : State) : State :=
  match s.latch.rendered with
  | none => skipHeartbeat s
  | some byte => sendHeartbeat byte s

/-- `TX_HB(hb_fire, now)` (R152). -/
def txHb (s : State) : State := if s.out.hbFire then txRendered (render s) else s

/-- The arm `r = none` of TX_HB, taken on its own (R153). -/
def txHbNone (s : State) : State :=
  if s.out.hbFire then skipHeartbeat (s.withLatch { s.latch with rendered := none }) else s

/-- Phase 4 of a pass (R157): check, then transmit. -/
def schedule (s : State) : State := txHb (schedFire (schedCheck s))

/-! ### Meanings -/

/-- SCHED_CHECK, part 1 (R150). -/
def execSchedCheck (s : State) : Result := .next (schedCheck s)

/-- SCHED_CHECK, part 2 (R151). -/
def execSchedCheckFire (s : State) : Result := .next (schedFire s)

/-- TX_HB (R152). DESIGN CHOICE (log entry 24): called by itself it takes any fault code, one of
`2^FAULT_WIDTH` or more included, which R196 refuses in a step. -/
def execTxHb (s : State) : Result := .next (txHb s)

/-- TX_HB NONE (R153). -/
def execTxHbNone (s : State) : Result := .next (txHbNone s)

end Sys2Proof.Machine
end

