-- ==== Sys2Proof/Machine/Pass.lean ====
section
/-! DEFINITION. The steps of the block: PASS, PASS_RESUME (43_scheduler_pass.md R157, R158) and RESET
(70_reset_and_hazards.md R210). -/

namespace Sys2Proof.Machine

/-- Phases 1 to 3 of a pass, in this order (R156, R157). -/
def phases123 (s : State) : State := cmdPhase3 (rxPhase (acknowledge (beginStep s)))

/-- Phase 4 runs unless the key was `'v'` (R157). -/
def phase4 (s : State) : State := if s.cmdPhase = .top then schedule s else s

/-- `PASS(in)` (R157). -/
def passStep (s : State) : State := publish (phase4 (phases123 s))

/-- `PASS_RESUME(in)` (R158): with no character nothing changes (R139, R197). -/
def resumeStep (s : State) : State :=
  match s.inp.key with
  | none => publish (beginStep s)
  | some c => publish (schedule (cmdHbcfg c (beginStep s)))

/-- `RESET()` (R210): the four registers take their reset values and nothing of the previous run survives;
what is lined up belongs to the environment and the configuration is constant (R211). -/
def resetStep (s : State) : State := { State.resetWith s.cfg with stim := s.stim, draws := s.draws }

/-- PASS (R157): the step taken when `CMD_PHASE = TOP`, the only one there beside RESET (R161). -/
def execPass (s : State) : Result :=
  if s.cmdPhase = .top then withTypedInput s passStep else .refused .stepNotEnabled

/-- PASS_RESUME (R158): the step taken when `CMD_PHASE = HB_CONFIG` (R161). -/
def execPassResume (s : State) : Result :=
  if s.cmdPhase = .hbConfig then withTypedInput s resumeStep else .refused .stepNotEnabled

/-- RESET (R210): enabled in every state. -/
def execReset (s : State) : Result := .next (resetStep s)

end Sys2Proof.Machine
end

