-- ==== Sys2Proof/Machine/Dispatch.lean ====
section
/-! DEFINITION. One arm per operation: the meaning of each row of opcode_table.json. -/

namespace Sys2Proof.Machine

/-- What an operation does in a state. -/
def exec (i : Instr) (s : State) : Host.Outcome State Fault Refusal :=
  match i with
  | .decHb w => Sys2Proof.Machine.execDecHb w s
  | .decDr w => Sys2Proof.Machine.execDecDr w s
  | .encHbcmdStandby => Sys2Proof.Machine.execEncHbcmdStandby s
  | .encHbcmdDischarge => Sys2Proof.Machine.execEncHbcmdDischarge s
  | .encDreq => Sys2Proof.Machine.execEncDreq s
  | .encBmshb state soc => Sys2Proof.Machine.execEncBmshb state soc s
  | .encBmsdr r => Sys2Proof.Machine.execEncBmsdr r s
  | .routeBmsHeartbeat => Sys2Proof.Machine.execRouteBmsHeartbeat s
  | .routeBmsDischargeResponse => Sys2Proof.Machine.execRouteBmsDischargeResponse s
  | .routeBmsPackStatus => Sys2Proof.Machine.execRouteBmsPackStatus s
  | .routeBmsCellTemps => Sys2Proof.Machine.execRouteBmsCellTemps s
  | .routeBmsErrors => Sys2Proof.Machine.execRouteBmsErrors s
  | .routeUnknown id => Sys2Proof.Machine.execRouteUnknown id s
  | .routeNone => Sys2Proof.Machine.execRouteNone s
  | .cmdTopV => Sys2Proof.Machine.execCmdTopV s
  | .cmdTopKeyDreq => Sys2Proof.Machine.execCmdTopKeyDreq s
  | .cmdTopOther c => Sys2Proof.Machine.execCmdTopOther c s
  | .cmdHbcfgS => Sys2Proof.Machine.execCmdHbcfgS s
  | .cmdHbcfgD => Sys2Proof.Machine.execCmdHbcfgD s
  | .cmdHbcfgN => Sys2Proof.Machine.execCmdHbcfgN s
  | .cmdHbcfgOther c => Sys2Proof.Machine.execCmdHbcfgOther c s
  | .cmdHbcfgNone => Sys2Proof.Machine.execCmdHbcfgNone s
  | .cmdTopNone => Sys2Proof.Machine.execCmdTopNone s
  | .loadw len => Sys2Proof.Machine.execLoadw len s
  | .extract w start stop signed => Sys2Proof.Machine.execExtract w start stop signed s
  | .classifyState state => Sys2Proof.Machine.execClassifyState state s
  | .rxPhase => Sys2Proof.Machine.execRxPhase s
  | .insert w start stop v => Sys2Proof.Machine.execInsert w start stop v s
  | .storew w len => Sys2Proof.Machine.execStorew w len s
  | .cmdPhase3 => Sys2Proof.Machine.execCmdPhase3 s
  | .cmdHbcfg c => Sys2Proof.Machine.execCmdHbcfg c s
  | .render => Sys2Proof.Machine.execRender s
  | .schedCheck => Sys2Proof.Machine.execSchedCheck s
  | .schedCheckFire => Sys2Proof.Machine.execSchedCheckFire s
  | .txHb => Sys2Proof.Machine.execTxHb s
  | .txHbNone => Sys2Proof.Machine.execTxHbNone s
  | .pass => Sys2Proof.Machine.execPass s
  | .passResume => Sys2Proof.Machine.execPassResume s
  | .reset => Sys2Proof.Machine.execReset s

end Sys2Proof.Machine
end

