-- ==== Sys2Proof/Machine/Step.lean ====
section
/-! DEFINITION. One step: fetch what is lined up next (Machine/Ops.lean), run it. -/

namespace Sys2Proof.Machine

/-- One step of the machine (R161): what `fetch` names, in the state `fetch` leaves; nothing where a call asks
for no operation. -/
def step (s : State) : Host.Outcome State Fault Refusal :=
  match fetch s with
  | .ok (some i, s') => exec i s'
  | .ok (none, s') => .next s'
  | .error r => .refused r

/-- `s` with the operation of a table word lined up next, as a test bench's call (log entry 7). -/
def State.withFetchWord (s : State) (nbits w : Nat) : State :=
  { s with stim := .call (tableCode s.cfg nbits w) s.inp :: s.stim }

end Sys2Proof.Machine
end

