-- ==== Sys2Proof/Safety.lean ====
section
/-! DEFINITION. The terms claims are stated in: typed inputs, the frames the block sends, what an event of
the loop driver is, the invariant every step keeps, and the table of which operation writes which register.
They are written from the rules, beside the machine's own functions and not through them. -/

namespace Sys2Proof.Machine

/-! ### Inputs and events -/

/-- The input record is in the types of R29 (R196). -/
def InputTyped (cfg : Config) (inp : Input) : Prop :=
  (∀ f, inp.rx = some f → f.len ≤ 8 ∧ f.id < 2 ^ cfg.idWidth) ∧
  inp.rxFault < 2 ^ cfg.faultWidth ∧ inp.txFaultDreq < 2 ^ cfg.faultWidth ∧ inp.txFaultHb < 2 ^ cfg.faultWidth

/-- The event of the loop driver a step takes; none where a test bench's call is lined up (R161). -/
def nextEvent (s : State) : Option LoopEvent :=
  match s.stim with
  | [] => some (Config.freeEvent s.draws)
  | .loop e :: _ => some e
  | .call _ _ :: _ => none

/-- `s` with the loop iterations `inputs` lined up, and nothing after them. -/
def withIterations (s : State) (inputs : List Input) : State :=
  { s with stim := inputs.map fun inp => .loop (.iterate inp) }

/-- The two states agree on the four registers, the configuration and what is lined up: on all but the
values that live inside one step (R20, R26). -/
def SameRetained (s t : State) : Prop :=
  s.lastFireTick = t.lastFireTick ∧ s.vcuState = t.vcuState ∧ s.cmdPhase = t.cmdPhase ∧
  s.canResetReq = t.canResetReq ∧ s.cfg = t.cfg ∧ s.stim = t.stim ∧ s.draws = t.draws

/-- `CMD_PHASE` after a step of the block that takes `key` (R142). -/
def phaseAfterKey : CmdPhase → Option Byte → CmdPhase
  | .top, key => if key = some 0x76 then .hbConfig else .top
  | .hbConfig, none => .hbConfig
  | .hbConfig, some _ => .top

/-- `CMD_PHASE` after steps of the block that take these inputs (R142). -/
def phaseAfter (phase : CmdPhase) (inputs : List Input) : CmdPhase :=
  inputs.foldl (fun p inp => phaseAfterKey p inp.key) phase

/-- An outcome with the input record of the step forgotten. -/
def forgetInput : Result → Result
  | .next s => .next (s.withInp Input.idle)
  | .fault r => .fault r
  | .refused r => .refused r

/-! ### Payloads and frames, by the rules -/

/-- The payload word of `len` bytes (R42): `sum over k in 0 .. len-1 of zext_64(b[k]) << (56 - 8k)`. -/
def payloadWord (byte : Nat → Byte) (len : Nat) : Word :=
  BitVec.ofNat 64 (∑ k ∈ Finset.range len, (byte k).toNat * 2 ^ (56 - 8 * k))

/-- The payload word of a frame (R42). -/
def framePayload (f : Frame) : Word := payloadWord (fun k => f.bytes.toList.getD k 0) f.len

/-- A 1-byte frame whose byte 0 is `tag << 7`, the rest zero (R67, R68, R160). -/
def tagFrame (id : Nat) (tag : BitVec 1) : Frame :=
  { id := id, bytes := #v[BitVec.ofNat 8 (tag.toNat * 128), 0, 0, 0, 0, 0, 0, 0], len := 1 }

/-- The discharge-request frame (R132). -/
def dreqFrame (cfg : Config) : Frame := tagFrame cfg.idVcuDischargeRequest cfg.tagDreqEnter

/-- The heartbeat frames of a mode: one, or none in NONE (R140, R152, R153). -/
def heartbeatFrames (cfg : Config) : VcuState → List Frame
  | .standby => [tagFrame cfg.idVcuHeartbeat cfg.tagHbStandby]
  | .discharge => [tagFrame cfg.idVcuHeartbeat cfg.tagHbDischarge]
  | .none => []

/-- `elapsed > 1000` with the 32-bit wrap written out (R150, R151). -/
def Fires (now last : Tick) : Prop := 1000 < (now.toNat + 2 ^ 32 - last.toNat) % 2 ^ 32

/-- The event of a transport call that answered `code` (R181). -/
def transportEvents (dir : Direction) (code : Nat) : List Diag :=
  if code = 0 then [] else [.transportFault dir code]

/-- `rx_kind` of a received frame, or of none (R92). -/
def kindOf (cfg : Config) : Option Frame → RxKind
  | none => .none
  | some f =>
    if f.id = cfg.idBmsHeartbeat then .bmsHeartbeat
    else if f.id = cfg.idBmsDischargeResponse then .bmsDischargeResponse
    else if f.id = cfg.idBmsPackStatus ∨ f.id = cfg.idBmsCellTemps ∨ f.id = cfg.idBmsErrors then .unhandled
    else .unknown

/-- The code is one of the six named ones (R70). -/
def NamedCode (cfg : Config) (st : BitVec 3) : Prop := ∃ n, stateCode cfg n = st

/-- The mode a second key selects, if any (R135 to R137). -/
def modeOfKey (c : Byte) : Option VcuState :=
  if c = 0x73 then some .standby
  else if c = 0x64 then some .discharge
  else if c = 0x6E then some .none
  else none

/-- From `phase`, no second key among the inputs selects a mode other than NONE (R135, R136): at HB_CONFIG the
character, if any, is `'n'` or one outside the table; at TOP it is any character or none. -/
def LeavesNone : CmdPhase → List Input → Prop
  | _, [] => True
  | phase, inp :: rest =>
    (phase = .hbConfig → ∀ c, inp.key = some c → (modeOfKey c).getD .none = .none) ∧
    LeavesNone (phaseAfterKey phase inp.key) rest

/-- The event of a top-level key outside the table (R133). -/
def topKeyEvents (cfg : Config) : Option Byte → List Diag
  | none => []
  | some c => if c = 0x76 ∨ c = cfg.keyDreq then [] else [.unrecognizedCmd .top c]

/-- The event of a second key outside the table (R138). -/
def cfgKeyEvents (c : Byte) : List Diag :=
  if modeOfKey c = none then [.unrecognizedCmd .hbConfig c] else []

/-- The event of a received heartbeat with a reserved code (R97, R182). -/
def enumEvents (cfg : Config) : Option Frame → List Diag
  | none => []
  | some f =>
    if kindOf cfg (some f) = .bmsHeartbeat ∧ hbStateOf cfg (framePayload f) ∉ stateCodes cfg then
      [.unexpectedEnum .bmsHeartbeat .state (hbStateOf cfg (framePayload f))]
    else []

/-! ### Configurations -/

/-- The constraints on the parameters (R8, R60, R61, R196). -/
def ConfigConstraints (cfg : Config) : Prop :=
  (cfg.hbStateStart ≤ 63 ∧ cfg.hbSocStart ≤ 63 ∧ cfg.drStart ≤ 63) ∧
  (cfg.hbStateStart = cfg.hbStateEnd + 2 ∧ cfg.hbSocStart = cfg.hbSocEnd + 9 ∧ cfg.drStart = cfg.drEnd) ∧
  (∀ b, cfg.hbStateEnd ≤ b → b ≤ cfg.hbStateStart → ¬ (cfg.hbSocEnd ≤ b ∧ b ≤ cfg.hbSocStart)) ∧
  (∀ m n, stateCode cfg m = stateCode cfg n → m = n) ∧
  cfg.tagHbStandby ≠ cfg.tagHbDischarge ∧
  (cfg.idBmsHeartbeat ≠ cfg.idBmsDischargeResponse ∧ cfg.idBmsHeartbeat ≠ cfg.idBmsPackStatus ∧
    cfg.idBmsHeartbeat ≠ cfg.idBmsCellTemps ∧ cfg.idBmsHeartbeat ≠ cfg.idBmsErrors ∧
    cfg.idBmsDischargeResponse ≠ cfg.idBmsPackStatus ∧ cfg.idBmsDischargeResponse ≠ cfg.idBmsCellTemps ∧
    cfg.idBmsDischargeResponse ≠ cfg.idBmsErrors ∧ cfg.idBmsPackStatus ≠ cfg.idBmsCellTemps ∧
    cfg.idBmsPackStatus ≠ cfg.idBmsErrors ∧ cfg.idBmsCellTemps ≠ cfg.idBmsErrors) ∧
  (cfg.idBmsHeartbeat < 2 ^ cfg.idWidth ∧ cfg.idBmsDischargeResponse < 2 ^ cfg.idWidth ∧
    cfg.idBmsPackStatus < 2 ^ cfg.idWidth ∧ cfg.idBmsCellTemps < 2 ^ cfg.idWidth ∧
    cfg.idBmsErrors < 2 ^ cfg.idWidth ∧ cfg.idVcuHeartbeat < 2 ^ cfg.idWidth ∧
    cfg.idVcuDischargeRequest < 2 ^ cfg.idWidth) ∧
  cfg.keyDreq ≠ 0x76

/-! ### The invariant -/

/-- A frame the block may transmit (R160): one byte long, under one of its two identifiers, bits 6:0 of
byte 0 and all of bytes 1 to 7 zero (R67, R68). -/
def TxFrameOk (cfg : Config) (f : Frame) : Prop :=
  f.len = 1 ∧ (f.id = cfg.idVcuHeartbeat ∨ f.id = cfg.idVcuDischargeRequest) ∧
  ∃ tag : BitVec 1, f.bytes = #v[BitVec.ofNat 8 (tag.toNat * 128), 0, 0, 0, 0, 0, 0, 0]

/-- An event the block may raise (R184): a non-zero fault code, a reserved state code, a key outside the
table of its level (R76, R77). -/
def DiagOk (cfg : Config) : Diag → Prop
  | .transportFault _ code => code ≠ 0
  | .unexpectedEnum _ _ raw => ¬ NamedCode cfg raw
  | .unrecognizedCmd .top c => c ≠ 0x76 ∧ c ≠ cfg.keyDreq
  | .unrecognizedCmd .hbConfig c => c ≠ 0x73 ∧ c ≠ 0x64 ∧ c ≠ 0x6E

/-- What every step keeps: both frame buffers in canonical form with at most 8 valid bytes (R14, R40),
every frame of `tx` one the block may transmit, every event of `diag` one it may raise. -/
structure Inv (s : State) : Prop where
  rxWf : s.rxBuf.mem.wf = true
  rxLen : s.rxBuf.len ≤ 8
  txWf : s.txBuf.mem.wf = true
  txLen : s.txBuf.len ≤ 8
  txOk : ∀ f ∈ s.out.tx, TxFrameOk s.cfg f
  diagOk : ∀ d ∈ s.out.diag, DiagOk s.cfg d

/-! ### Which operation may write which register (R32) -/

/-- One row of the access table: which of the four registers the operation may write. -/
structure RegisterWrites where
  lastFireTick : Bool
  vcuState : Bool
  cmdPhase : Bool
  canResetReq : Bool

/-- The W entries of R32, for every operation; a phase or a step may write what the operations in it may.
`TX_HB NONE` writes `LAST_FIRE_TICK` only under D13's other reading. -/
def registerWrites : Instr → RegisterWrites
  | .decHb _ => ⟨false, false, false, false⟩
  | .decDr _ => ⟨false, false, false, false⟩
  | .encHbcmdStandby => ⟨false, false, false, false⟩
  | .encHbcmdDischarge => ⟨false, false, false, false⟩
  | .encDreq => ⟨false, false, false, false⟩
  | .encBmshb _ _ => ⟨false, false, false, false⟩
  | .encBmsdr _ => ⟨false, false, false, false⟩
  | .routeBmsHeartbeat => ⟨false, false, false, false⟩
  | .routeBmsDischargeResponse => ⟨false, false, false, false⟩
  | .routeBmsPackStatus => ⟨false, false, false, false⟩
  | .routeBmsCellTemps => ⟨false, false, false, false⟩
  | .routeBmsErrors => ⟨false, false, false, false⟩
  | .routeUnknown _ => ⟨false, false, false, false⟩
  | .routeNone => ⟨false, false, false, false⟩
  | .cmdTopV => ⟨false, false, true, false⟩
  | .cmdTopKeyDreq => ⟨false, false, false, true⟩
  | .cmdTopOther _ => ⟨false, false, false, false⟩
  | .cmdHbcfgS => ⟨false, true, true, false⟩
  | .cmdHbcfgD => ⟨false, true, true, false⟩
  | .cmdHbcfgN => ⟨false, true, true, false⟩
  | .cmdHbcfgOther _ => ⟨false, false, true, false⟩
  | .cmdHbcfgNone => ⟨false, false, false, false⟩
  | .cmdTopNone => ⟨false, false, false, false⟩
  | .loadw _ => ⟨false, false, false, false⟩
  | .extract _ _ _ _ => ⟨false, false, false, false⟩
  | .classifyState _ => ⟨false, false, false, false⟩
  | .rxPhase => ⟨false, false, false, true⟩
  | .insert _ _ _ _ => ⟨false, false, false, false⟩
  | .storew _ _ => ⟨false, false, false, false⟩
  | .cmdPhase3 => ⟨false, false, true, true⟩
  | .cmdHbcfg _ => ⟨false, true, true, false⟩
  | .render => ⟨false, false, false, false⟩
  | .schedCheck => ⟨false, false, false, false⟩
  | .schedCheckFire => ⟨false, false, false, false⟩
  | .txHb => ⟨true, false, false, true⟩
  | .txHbNone => ⟨true, false, false, false⟩
  | .pass => ⟨true, false, true, true⟩
  | .passResume => ⟨true, true, true, true⟩
  | .reset => ⟨true, true, true, true⟩

end Sys2Proof.Machine
end

