-- ==== Sys2Proof/Certificates/Slice0/Obligations.lean ====
section
/-! DEFINITION. The statements for the provers. A statement about an operation gives its next state as an
equation, or field by field with the fields left alone named, so that it is completion, result and frame in
one. All of them hold for every configuration that meets the stated premises: none rests on a default. -/

open Sys2Proof Sys2Proof.Machine

/-! ### Decoding -/

/-- Words written out from the table (key rows R76, R77, command bytes R67) and from R65 decode to the
operations they stand for. Rests on the defaults D5 to D7, D11 and on log entry 6. -/
def Obligations.TableWordsDecode : Prop :=
  decodeTableWord 8 0x76 = some .cmdTopV ∧ decodeTableWord 8 0x72 = some .cmdTopKeyDreq ∧
  decodeTableWord 8 0x73 = some .cmdHbcfgS ∧ decodeTableWord 8 0x64 = some .cmdHbcfgD ∧
  decodeTableWord 8 0x6E = some .cmdHbcfgN ∧ decodeTableWord 8 0x00 = some .encHbcmdStandby ∧
  decodeTableWord 8 0x80 = some .encHbcmdDischarge ∧
  decodeTableWord 64 0x2008000000000000 = some (.decHb 0x2008000000000000)

/-- Decoding the call code of a well-formed operation gives the operation back, and leaves what follows. -/
def Obligations.DecodeOfEncodeIsTheOperation : Prop :=
  ∀ (cfg : Config) (i : Instr) (rest : List Byte), cfg.ok = true → i.wf cfg = true →
    decode cfg (encode cfg i ++ rest) = .ok (i, rest)

/-- What decodes is well formed, and its call code is the bytes it was decoded from: each code has one
meaning and no bit of it is dropped. -/
def Obligations.DecodedIsWellFormedAndCanonical : Prop :=
  ∀ (cfg : Config) (bs rest : List Byte) (i : Instr), decode cfg bs = .ok (i, rest) →
    i.wf cfg = true ∧ encode cfg i ++ rest = bs

/-! ### The step -/

/-- A step whose next stimulus is a call runs exactly the operation its code decodes to, with the stimulus
taken off and its answers as the input record. -/
def Obligations.StepRunsTheDecodedCall : Prop :=
  ∀ (s : State) (code : List Byte) (inp : Input) (rest : List Stimulus) (i : Instr), s.cfg.ok = true →
    s.stim = .call code inp :: rest → decode s.cfg code = .ok (i, []) →
    step s = exec i { s with stim := rest, inp := inp }

/-- Placing a table word makes the very next step run exactly the operation the word decodes to. -/
def Obligations.StepRunsThePlacedTableWord : Prop :=
  ∀ (s : State) (nbits w : Nat) (i : Instr), s.cfg.ok = true →
    decode s.cfg (tableCode s.cfg nbits w) = .ok (i, []) → step (s.withFetchWord nbits w) = exec i s

/-- An event of the loop driver runs PASS at TOP and PASS_RESUME at HB_CONFIG, with the event's answers as
the input record, or RESET (R161). The event is the one lined up, or a free one. -/
def Obligations.StepRunsWhatCmdPhaseSelects : Prop :=
  ∀ (s : State) (e : LoopEvent), s.cfg.ok = true → nextEvent s = some e →
    ∃ s', (s'.stim = s.stim.tail ∧ (s.stim ≠ [] → s'.draws = s.draws) ∧
        { s' with stim := s.stim, draws := s.draws } = s) ∧
      match e with
      | .iterate inp =>
        (s.cmdPhase = .top → step s = exec .pass { s' with inp := inp }) ∧
        (s.cmdPhase = .hbConfig → step s = exec .passResume { s' with inp := inp })
      | .reset => step s = exec .reset s'

/-- In a state with `CMD_PHASE = TOP` the only step is PASS and it answers a next state for every input
record of the right types; at HB_CONFIG the same of PASS_RESUME; RESET does in every state (R161). -/
def Obligations.EnabledStepsComplete : Prop :=
  ∀ s : State,
    (s.cmdPhase = .top → InputTyped s.cfg s.inp → ∃ t, exec .pass s = .next t) ∧
    (s.cmdPhase = .top → exec .passResume s = .refused .stepNotEnabled) ∧
    (s.cmdPhase = .hbConfig → InputTyped s.cfg s.inp → ∃ t, exec .passResume s = .next t) ∧
    (s.cmdPhase = .hbConfig → exec .pass s = .refused .stepNotEnabled) ∧
    (∃ t, exec .reset s = .next t)

/-- The check on the configuration says exactly the constraints of R8. -/
def Obligations.ConfigurationCheckIsTheConstraints : Prop :=
  ∀ cfg : Config, cfg.ok = true ↔ ConfigConstraints cfg

/-- Refused (R196): a configuration that breaks the constraints, whatever is lined up; in the step `CMD_PHASE`
selects, every input record outside the types of R29, a received frame longer than 8 bytes and an identifier
of `2^ID_WIDTH` or more by name. That a fault code over its width is refused, and a PASS_RESUME on a frame it does
not sample (R29, R158), is the MODEL's reading, not R196's list (DEDUCED, log entry 11). -/
def Obligations.IllTypedInputsAreRefused : Prop :=
  (∀ s : State, ¬ ConfigConstraints s.cfg → step s = .refused .configuration) ∧
  (∀ s : State, ¬ InputTyped s.cfg s.inp →
    (s.cmdPhase = .top → ∃ r, exec .pass s = .refused r) ∧
    (s.cmdPhase = .hbConfig → ∃ r, exec .passResume s = .refused r)) ∧
  (∀ (s : State) (f : Frame), s.inp.rx = some f → 8 < f.len →
    (s.cmdPhase = .top → exec .pass s = .refused .frameLength) ∧
    (s.cmdPhase = .hbConfig → exec .passResume s = .refused .frameLength)) ∧
  (∀ (s : State) (f : Frame), s.inp.rx = some f → f.len ≤ 8 → 2 ^ s.cfg.idWidth ≤ f.id →
    (s.cmdPhase = .top → exec .pass s = .refused .identifierRange) ∧
    (s.cmdPhase = .hbConfig → exec .passResume s = .refused .identifierRange))

/-- Operands outside their types are refused by name: lengths over 8, pairs that are no descriptor. R196 does not
list these operands; the refusals are the MODEL's reading of R46 and R60 (DEDUCED, log entry 22). -/
def Obligations.OperandsOutsideTheirTypesAreRefused : Prop :=
  ∀ (s : State) (w v : Word) (len start stop : Nat) (signed : Bool),
    (8 < len → exec (.loadw len) s = .refused .frameLength ∧ exec (.storew w len) s = .refused .frameLength) ∧
    (63 < start ∨ start < stop → exec (.extract w start stop signed) s = .refused .descriptorRange ∧
      exec (.insert w start stop v) s = .refused .descriptorRange)

/-! ### Codec: words and frames -/

/-- LOADW is the sum of R42 over the first `len` bytes of the RX buffer (R90's `MemRead(RX, k, 1)`); bytes at `len`
and above contribute nothing, whatever the buffer holds. What the buffer holds where no step of the block is
running is log entry 26's matter. -/
def Obligations.LoadwIsTheBigEndianSum : Prop :=
  ∀ (s : State) (len : Nat), len ≤ 8 →
    exec (.loadw len) s =
      .next { s with latch := { s.latch with word := payloadWord (fun k => s.rxBuf.mem.read k) len } }

/-- STOREW writes byte `k` of the word where `k < len` and 0 from `len` to 7; no other index and nothing
else changes (R43, R111). -/
def Obligations.StorewWritesTheTopBytes : Prop :=
  ∀ (s : State) (w : Word) (len : Nat), len ≤ 8 →
    ∃ m, exec (.storew w len) s = .next { s with txBuf := { mem := m, len := len } } ∧
      (∀ k, k < 8 → m.read k = if k < len then w.extractLsb' (56 - 8 * k) 8 else 0) ∧
      (∀ k, 8 ≤ k → m.read k = s.txBuf.mem.read k)

/-- Storing a word as a frame and loading the frame keeps the top `8*len` bits and clears the rest. -/
def Obligations.LoadOfStoreKeepsTheTopBytes : Prop :=
  ∀ (s : State) (w : Word) (len : Nat), len ≤ 8 →
    ∃ t, exec (.storew w len) s = .next t ∧
      exec (.loadw len) { t with rxBuf := t.txBuf } =
        .next { t with rxBuf := t.txBuf, latch := { t.latch with word :=
          w &&& (BitVec.ofNat 64 (2 ^ (8 * len) - 1) <<< (64 - 8 * len)) } }

/-- EXTRACT gives the `w` field bits, zero-extended (R91), or sign-extended for an entry marked signed. The second
clause is not R91's: it is the spec's decision R63, D23, which the model takes over (DESIGN CHOICE, log
entry 16). -/
def Obligations.ExtractGivesTheFieldExtended : Prop :=
  ∀ (s : State) (w : Word) (start stop : Nat), start ≤ 63 → stop ≤ start →
    exec (.extract w start stop false) s =
      .next { s with latch := { s.latch with field :=
        (BitVec.ofNat (start - stop + 1) (w.toNat / 2 ^ stop)).setWidth 64 } } ∧
    exec (.extract w start stop true) s =
      .next { s with latch := { s.latch with field :=
        (BitVec.ofNat (start - stop + 1) (w.toNat / 2 ^ stop)).signExtend 64 } }

/-- INSERT puts the low `w` bits of the value in the field and leaves every other bit (R110). -/
def Obligations.InsertWritesTheFieldOnly : Prop :=
  ∀ (s : State) (w v : Word) (start stop : Nat), start ≤ 63 → stop ≤ start →
    ∃ r : Word, exec (.insert w start stop v) s = .next { s with latch := { s.latch with word := r } } ∧
      ∀ b, b < 64 → r.getLsbD b = if stop ≤ b ∧ b ≤ start then v.getLsbD (b - stop) else w.getLsbD b

/-- Extracting what was inserted gives the value, and a field that does not overlap is not changed (R110). -/
def Obligations.ExtractOfInsert : Prop :=
  ∀ (w v : Word) (start stop start' stop' : Nat), start ≤ 63 → stop ≤ start → start' ≤ 63 → stop' ≤ start' →
    (v.toNat < 2 ^ (start - stop + 1) → extractField (insertBits w start stop v) start stop false = v) ∧
    (start < stop' ∨ start' < stop → ∀ signed,
      extractField (insertBits w start stop v) start' stop' signed = extractField w start' stop' signed)

/-- DEC_HB gives both fields raw: for every word, `state` and `soc_percentage` are the bits of the word at
their positions, with no clamping and no check, and nothing else changes (R93). -/
def Obligations.DecHbGivesTheRawFields : Prop :=
  ∀ (s : State) (w : Word), s.cfg.ok = true →
    exec (.decHb w) s = .next { s with out := { s.out with
      hbState := BitVec.ofNat 3 (w.toNat / 2 ^ s.cfg.hbStateEnd)
      hbSoc := BitVec.ofNat 10 (w.toNat / 2 ^ s.cfg.hbSocEnd) } }

/-- DEC_DR is READY iff the single designated bit is 1, for all other 63 bits arbitrary (R94). -/
def Obligations.DecDrIsTheDesignatedBit : Prop :=
  ∀ (s : State) (w : Word), s.cfg.ok = true →
    exec (.decDr w) s =
      .next { s with out := { s.out with drResponse := BitVec.ofBool (w.getLsbD s.cfg.drStart) } }

/-- Two words that agree on the field ranges decode alike: bits outside them have no effect (R96). -/
def Obligations.DecodingIgnoresOtherBits : Prop :=
  ∀ (s : State) (w w' : Word), s.cfg.ok = true →
    ((∀ b, (s.cfg.hbStateEnd ≤ b ∧ b ≤ s.cfg.hbStateStart) ∨ (s.cfg.hbSocEnd ≤ b ∧ b ≤ s.cfg.hbSocStart) →
      w.getLsbD b = w'.getLsbD b) → exec (.decHb w) s = exec (.decHb w') s) ∧
    (w.getLsbD s.cfg.drStart = w'.getLsbD s.cfg.drStart → exec (.decDr w) s = exec (.decDr w') s)

/-- CLASSIFY_STATE flags exactly the codes that are none of the six (R98). -/
def Obligations.ClassifyStateFlagsReservedCodes : Prop :=
  ∀ (s : State) (st : BitVec 3),
    ∃ r : Bool, exec (.classifyState st) s = .next { s with out := { s.out with hbStateReserved := r } } ∧
      (r = false ↔ NamedCode s.cfg st)

/-- The command encoders give `tag << 7` at 8 bits (R112, R113) and touch nothing else (R117). That the TX buffer is
left alone, although R112 and R113 go through STOREW, is the MODEL's choice (DESIGN CHOICE, log entry 25). -/
def Obligations.CommandBytesAreTheTagAtBit7 : Prop :=
  ∀ s : State,
    exec .encHbcmdStandby s =
      .next { s with latch := { s.latch with byte := s.cfg.tagHbStandby.setWidth 8 <<< 7 } } ∧
    exec .encHbcmdDischarge s =
      .next { s with latch := { s.latch with byte := s.cfg.tagHbDischarge.setWidth 8 <<< 7 } } ∧
    exec .encDreq s = .next { s with latch := { s.latch with byte := s.cfg.tagDreqEnter.setWidth 8 <<< 7 } }

/-- The two heartbeat bytes differ in exactly bit 7 (R112). -/
def Obligations.HeartbeatBytesDifferInBit7Only : Prop :=
  ∀ s : State, s.cfg.ok = true →
    ∃ t u, exec .encHbcmdStandby s = .next t ∧ exec .encHbcmdDischarge s = .next u ∧
      t.latch.byte ^^^ u.latch.byte = 0x80

/-- The packers put each field at its position and leave every other bit zero (R114, R115). -/
def Obligations.PackersSetTheFieldsOnly : Prop :=
  ∀ (s : State) (st : BitVec 3) (soc : BitVec 10) (r : BitVec 1), s.cfg.ok = true →
    ∃ w w' : Word, exec (.encBmshb st soc) s = .next { s with latch := { s.latch with word := w } } ∧
      exec (.encBmsdr r) s = .next { s with latch := { s.latch with word := w' } } ∧
      (∀ b, b < 64 → w.getLsbD b =
        if s.cfg.hbStateEnd ≤ b ∧ b ≤ s.cfg.hbStateStart then st.getLsbD (b - s.cfg.hbStateEnd)
        else if s.cfg.hbSocEnd ≤ b ∧ b ≤ s.cfg.hbSocStart then soc.getLsbD (b - s.cfg.hbSocEnd) else false) ∧
      (∀ b, b < 64 → w'.getLsbD b = (decide (b = s.cfg.drStart) && r.getLsbD 0))

/-- The round-trip law, on words and through the bytes of a frame, for all codes and all raw values; and
decode then encode keeps the field bits and clears the rest (R116). -/
def Obligations.RoundTripLaw : Prop :=
  ∀ cfg : Config, cfg.ok = true →
    (∀ (st : BitVec 3) (soc : BitVec 10),
      hbStateOf cfg (packHeartbeat cfg st soc) = st ∧ hbSocOf cfg (packHeartbeat cfg st soc) = soc) ∧
    (∀ (st : BitVec 3) (soc : BitVec 10) (b : Buffer),
      let w := loadWord (storeWord b (packHeartbeat cfg st soc) 8).mem 8
      hbStateOf cfg w = st ∧ hbSocOf cfg w = soc) ∧
    (∀ r : BitVec 1, drOf cfg (packDischargeResponse cfg r) = r) ∧
    (∀ w : Word, packHeartbeat cfg (hbStateOf cfg w) (hbSocOf cfg w) =
      w &&& (fieldmask cfg.hbStateStart cfg.hbStateEnd ||| fieldmask cfg.hbSocStart cfg.hbSocEnd))

/-! ### Receive -/

/-- Each ROUTE row sets `rx_kind` as the row says and nothing else (R92). -/
def Obligations.RouteRowsSetRxKind : Prop :=
  ∀ (s : State) (id : Nat),
    exec .routeNone s = .next { s with out := { s.out with rxKind := .none } } ∧
    exec .routeBmsHeartbeat s = .next { s with out := { s.out with rxKind := .bmsHeartbeat } } ∧
    exec .routeBmsDischargeResponse s = .next { s with out := { s.out with rxKind := .bmsDischargeResponse } } ∧
    exec .routeBmsPackStatus s = .next { s with out := { s.out with rxKind := .unhandled } } ∧
    exec .routeBmsCellTemps s = .next { s with out := { s.out with rxKind := .unhandled } } ∧
    exec .routeBmsErrors s = .next { s with out := { s.out with rxKind := .unhandled } } ∧
    exec (.routeUnknown id) s = .next { s with out := { s.out with rxKind := .unknown } }

/-- The row a received frame selects by its identifier, or no frame, sets the `rx_kind` R92 gives; the
length and the bytes play no part. -/
def Obligations.RoutingIsByIdentifier : Prop :=
  ∀ (s : State) (rx : Option Frame),
    exec (decodeRx s.cfg rx) s = .next { s with out := { s.out with rxKind := kindOf s.cfg rx } }

/-- RX_PHASE (R97): the fault, the routing result, the decoded outputs (0 where not selected), the reserved
flag and its event; of the registers only `CAN_RESET_REQ`, set on a fault. The TX buffer and
the other outputs are unchanged. That the RX buffer holds a decoded frame's eight bytes and is untouched otherwise
is the MODEL's choice (DESIGN CHOICE, log entry 26). -/
def Obligations.RxPhaseReceivesRoutesDecodes : Prop :=
  ∀ s : State, s.cfg.ok = true → InputTyped s.cfg s.inp →
    ∃ (buf : Buffer) (word : Word) (o : Output),
      exec .rxPhase s = .next { s with
        canResetReq := s.canResetReq || decide (s.inp.rxFault ≠ 0)
        rxBuf := buf
        latch := { s.latch with word := word }
        out := o } ∧
      o.tx = s.out.tx ∧ o.hbFire = s.out.hbFire ∧ o.canResetReq = s.out.canResetReq ∧
      o.rxKind = kindOf s.cfg s.inp.rx ∧
      o.diag = s.out.diag ++ transportEvents .rx s.inp.rxFault ++ enumEvents s.cfg s.inp.rx ∧
      (∀ f, s.inp.rx = some f → kindOf s.cfg (some f) = .bmsHeartbeat →
        o.hbState = hbStateOf s.cfg (framePayload f) ∧ o.hbSoc = hbSocOf s.cfg (framePayload f) ∧
        (o.hbStateReserved = false ↔ NamedCode s.cfg (hbStateOf s.cfg (framePayload f))) ∧
        o.drResponse = 0) ∧
      (∀ f, s.inp.rx = some f → kindOf s.cfg (some f) = .bmsDischargeResponse →
        o.drResponse = drOf s.cfg (framePayload f) ∧ o.hbState = 0 ∧ o.hbSoc = 0 ∧ o.hbStateReserved = false) ∧
      (∀ f, s.inp.rx = some f →
        kindOf s.cfg (some f) = .bmsHeartbeat ∨ kindOf s.cfg (some f) = .bmsDischargeResponse →
        word = framePayload f ∧ buf.len = f.len ∧ (∀ k, k < 8 → buf.mem.read k = f.bytes.toList.getD k 0) ∧
        ∀ k, 8 ≤ k → buf.mem.read k = s.rxBuf.mem.read k) ∧
      (kindOf s.cfg s.inp.rx ≠ .bmsHeartbeat → kindOf s.cfg s.inp.rx ≠ .bmsDischargeResponse →
        o.hbState = 0 ∧ o.hbSoc = 0 ∧ o.hbStateReserved = false ∧ o.drResponse = 0 ∧
        word = s.latch.word ∧ buf = s.rxBuf)

/-! ### Commands -/

/-- CMD_TOP `'v'` writes `CMD_PHASE` only; an unrecognised top-level key raises its event only; no character,
at either level, changes nothing (R130, R131, R133, R139). -/
def Obligations.TopLevelRows : Prop :=
  ∀ (s : State) (c : Byte),
    exec .cmdTopV s = .next { s with cmdPhase := .hbConfig } ∧
    exec (.cmdTopOther c) s =
      .next { s with out := { s.out with diag := s.out.diag ++ [.unrecognizedCmd .top c] } } ∧
    exec .cmdTopNone s = .next s ∧
    exec .cmdHbcfgNone s = .next s

/-- The discharge request (R132): exactly one frame `(ID_VCU_DISCHARGE_REQUEST, tag << 7, 1)` is handed over,
whatever `VCU_STATE`; a fault sets `CAN_RESET_REQ` and raises its event; `VCU_STATE`, `CMD_PHASE`,
`LAST_FIRE_TICK` and every other output are unchanged. -/
def Obligations.DischargeRequestIsSentOnce : Prop :=
  ∀ s : State,
    ∃ buf : Buffer, exec .cmdTopKeyDreq s = .next { s with
        canResetReq := s.canResetReq || decide (s.inp.txFaultDreq ≠ 0)
        txBuf := buf
        latch := { s.latch with byte := s.cfg.tagDreqEnter.setWidth 8 <<< 7 }
        out := { s.out with
          tx := s.out.tx ++ [dreqFrame s.cfg]
          diag := s.out.diag ++ transportEvents .tx s.inp.txFaultDreq } } ∧
      buf.len = 1 ∧ (∀ k, k < 8 → buf.mem.read k = (dreqFrame s.cfg).bytes.toList.getD k 0) ∧
      ∀ k, 8 ≤ k → buf.mem.read k = s.txBuf.mem.read k

/-- The second key (R135 to R138): `'s'`, `'d'`, `'n'` write the mode; any other raises its event and leaves
`VCU_STATE`; all four return `CMD_PHASE` to TOP and touch nothing else. -/
def Obligations.SubMenuRows : Prop :=
  ∀ (s : State) (c : Byte),
    exec .cmdHbcfgS s = .next { s with vcuState := .standby, cmdPhase := .top } ∧
    exec .cmdHbcfgD s = .next { s with vcuState := .discharge, cmdPhase := .top } ∧
    exec .cmdHbcfgN s = .next { s with vcuState := .none, cmdPhase := .top } ∧
    exec (.cmdHbcfgOther c) s = .next { s with
      cmdPhase := .top
      out := { s.out with diag := s.out.diag ++ [.unrecognizedCmd .hbConfig c] } }

/-- CMD_PHASE_3 (R130) completes: with no character nothing happens, and a character runs the row of the
top-level table it selects (`'v'`, `KEY_DREQ`, any other). CMD_HBCFG (R134) writes the mode of the second key
or raises its event, and returns `CMD_PHASE` to TOP whatever the key; nothing else changes. -/
def Obligations.CharactersSelectTheirRows : Prop :=
  ∀ (s : State) (c : Byte),
    (∃ t, exec .cmdPhase3 s = .next t) ∧
    (s.inp.key = none → exec .cmdPhase3 s = .next s) ∧
    (s.inp.key = some c → c = 0x76 → exec .cmdPhase3 s = exec .cmdTopV s) ∧
    (s.inp.key = some c → c ≠ 0x76 → c = s.cfg.keyDreq → exec .cmdPhase3 s = exec .cmdTopKeyDreq s) ∧
    (s.inp.key = some c → c ≠ 0x76 → c ≠ s.cfg.keyDreq → exec .cmdPhase3 s = exec (.cmdTopOther c) s) ∧
    exec (.cmdHbcfg c) s = .next { s with
      vcuState := (modeOfKey c).getD s.vcuState
      cmdPhase := .top
      out := { s.out with diag := s.out.diag ++ cfgKeyEvents c } }

/-- RENDER (R140): the mode's command byte, or none in NONE; no register is written. -/
def Obligations.RenderGivesTheModesByte : Prop :=
  ∀ s : State, exec .render s = .next { s with latch := { s.latch with rendered :=
    match s.vcuState with
    | .standby => some (s.cfg.tagHbStandby.setWidth 8 <<< 7)
    | .discharge => some (s.cfg.tagHbDischarge.setWidth 8 <<< 7)
    | .none => none } }

/-- The transition table of the two command registers (R142), over the steps of the block. -/
def Obligations.CommandTransitionTable : Prop :=
  ∀ s t : State, s.cfg.ok = true →
    (exec .pass s = .next t → t.vcuState = s.vcuState ∧
      t.cmdPhase = if s.inp.key = some 0x76 then .hbConfig else .top) ∧
    (exec .passResume s = .next t →
      match s.inp.key with
      | none => t.cmdPhase = .hbConfig ∧ t.vcuState = s.vcuState
      | some c => t.cmdPhase = .top ∧ t.vcuState = (modeOfKey c).getD s.vcuState)

/-! ### Scheduler -/

/-- SCHED_CHECK: `elapsed` is the 32-bit unsigned difference with wrap-around (R150), and `hb_fire` is the
strict comparison with 1000 (R151); neither touches anything else. -/
def Obligations.SchedCheckComputesElapsedAndFire : Prop :=
  ∀ s : State,
    exec .schedCheck s = .next { s with latch := { s.latch with elapsed :=
      (BitVec.ofNat 32 ((s.inp.now.toNat + 2 ^ 32 - s.lastFireTick.toNat) % 2 ^ 32)) } } ∧
    exec .schedCheckFire s =
      .next { s with out := { s.out with hbFire := decide (s.latch.elapsed.toNat > 1000) } }

/-- The wrap-around law (R154): for a true distance `d` below 2^32, `elapsed` is `d` and the scheduler fires
exactly when `d > 1000`, whether or not the counter wrapped in between. -/
def Obligations.ElapsedIsExactBelowOneWrap : Prop :=
  ∀ (s : State) (d : Nat), d < 2 ^ 32 → s.inp.now = s.lastFireTick + BitVec.ofNat 32 d →
    ∃ t u, exec .schedCheck s = .next t ∧ exec .schedCheckFire t = .next u ∧
      t.latch.elapsed.toNat = d ∧ (u.out.hbFire = true ↔ d > 1000)

/-- TX_HB (R152, with D13's and D14's Booleans at what the rules state). Without `hb_fire` nothing happens;
in NONE nothing but the rendered value changes; otherwise exactly one heartbeat frame goes out,
`LAST_FIRE_TICK <- now` whatever the transport answers, and a fault is recorded. -/
def Obligations.TxHbTransmitsAndStamps : Prop :=
  ∀ s : State, s.cfg.updateTickInNone = false → s.cfg.updateTickOnFault = true →
    (s.out.hbFire = false → exec .txHb s = .next s) ∧
    (s.out.hbFire = true → s.vcuState = .none →
      exec .txHb s = .next { s with latch := { s.latch with rendered := none } }) ∧
    (s.out.hbFire = true → s.vcuState ≠ .none →
      ∃ (buf : Buffer) (r : Option Byte), exec .txHb s = .next { s with
          lastFireTick := s.inp.now
          canResetReq := s.canResetReq || decide (s.inp.txFaultHb ≠ 0)
          txBuf := buf
          latch := { s.latch with rendered := r }
          out := { s.out with
            tx := s.out.tx ++ heartbeatFrames s.cfg s.vcuState
            diag := s.out.diag ++ transportEvents .tx s.inp.txFaultHb } } ∧
        exec .render s = .next { s with latch := { s.latch with rendered := r } } ∧
        buf.len = 1 ∧
        (∀ f ∈ heartbeatFrames s.cfg s.vcuState, ∀ k, k < 8 → buf.mem.read k = f.bytes.toList.getD k 0) ∧
        ∀ k, 8 ≤ k → buf.mem.read k = s.txBuf.mem.read k)

/-- TX_HB and TX_HB NONE with `hb_fire` in NONE (R153, with D13's Boolean at what the rule states): no frame,
`LAST_FIRE_TICK` not written, nothing but the rendered value (none) changes. Without `hb_fire` both change
nothing at all. -/
def Obligations.TxHbSkipsInNone : Prop :=
  ∀ s : State,
    (s.out.hbFire = true → s.vcuState = .none → s.cfg.updateTickInNone = false →
      exec .txHb s = .next { s with latch := { s.latch with rendered := none } } ∧
      exec .txHbNone s = exec .txHb s) ∧
    (s.out.hbFire = false → exec .txHb s = .next s ∧ exec .txHbNone s = .next s)

/-- TX_HB and its NONE arm complete in every state and under both readings of D13 and D14. -/
def Obligations.TxHbUnderEitherReading : Prop :=
  ∀ s : State,
    (∃ t, exec .txHb s = .next t ∧
      (s.out.hbFire = true → t.lastFireTick =
        if s.vcuState = .none then (if s.cfg.updateTickInNone = true then s.inp.now else s.lastFireTick)
        else if s.inp.txFaultHb = 0 ∨ s.cfg.updateTickOnFault = true then s.inp.now else s.lastFireTick) ∧
      t.vcuState = s.vcuState ∧ t.cmdPhase = s.cmdPhase ∧ t.rxBuf = s.rxBuf ∧ t.cfg = s.cfg) ∧
    (s.out.hbFire = true → exec .txHbNone s = .next { s with
      lastFireTick := if s.cfg.updateTickInNone = true then s.inp.now else s.lastFireTick
      latch := { s.latch with rendered := none } })

/-! ### The steps of the block -/

/-- PASS is its four phases in order (R157): acknowledge, RX_PHASE, CMD_PHASE_3, and, if `CMD_PHASE` is
still TOP, SCHED_CHECK, its fire condition and TX_HB; then `can_reset_req` shows the register. -/
def Obligations.PassIsItsFourPhases : Prop :=
  ∀ s : State, s.cmdPhase = .top → InputTyped s.cfg s.inp →
    ∃ b c f,
      exec .rxPhase { s with
        canResetReq := s.canResetReq && !s.inp.canResetAck
        rxBuf := Buffer.empty, txBuf := Buffer.empty, latch := Latches.clear, out := Output.clear } = .next b ∧
      exec .cmdPhase3 b = .next c ∧
      (c.cmdPhase = .top → ∃ d e, exec .schedCheck c = .next d ∧ exec .schedCheckFire d = .next e ∧
        exec .txHb e = .next f) ∧
      (c.cmdPhase = .hbConfig → f = c) ∧
      exec .pass s = .next { f with out := { f.out with canResetReq := f.canResetReq } }

/-- The four registers after a PASS, from the registers and inputs before it. -/
def Obligations.PassRegisters : Prop :=
  ∀ s : State, s.cfg.ok = true → s.cmdPhase = .top → InputTyped s.cfg s.inp →
    s.cfg.updateTickInNone = false → s.cfg.updateTickOnFault = true →
    ∃ t, exec .pass s = .next t ∧
      t.vcuState = s.vcuState ∧
      (t.cmdPhase = .hbConfig ↔ s.inp.key = some 0x76) ∧
      (s.inp.key ≠ some 0x76 → Fires s.inp.now s.lastFireTick → s.vcuState ≠ .none →
        t.lastFireTick = s.inp.now) ∧
      (¬ (s.inp.key ≠ some 0x76 ∧ Fires s.inp.now s.lastFireTick ∧ s.vcuState ≠ .none) →
        t.lastFireTick = s.lastFireTick) ∧
      (t.canResetReq = true ↔
        (s.canResetReq = true ∧ s.inp.canResetAck = false) ∨ s.inp.rxFault ≠ 0 ∨
        (s.inp.key = some s.cfg.keyDreq ∧ s.inp.txFaultDreq ≠ 0) ∨
        (s.inp.key ≠ some 0x76 ∧ Fires s.inp.now s.lastFireTick ∧ s.vcuState ≠ .none ∧ s.inp.txFaultHb ≠ 0))

/-- The outputs of a PASS (R30, R157): the frames and events in order (R160, R184, R188), a discharge request, then a
heartbeat, and the receive fault, the reserved code, the key, the transmit faults; and the decoded outputs of
the frame routed (R93, R94, R97, R98), 0 where not selected. -/
def Obligations.PassOutputsInPhaseOrder : Prop :=
  ∀ s : State, s.cfg.ok = true → s.cmdPhase = .top → InputTyped s.cfg s.inp →
    ∃ (t : State) (dreq fire : Bool), exec .pass s = .next t ∧
      (dreq = true ↔ s.inp.key = some s.cfg.keyDreq) ∧
      (fire = true ↔ s.inp.key ≠ some 0x76 ∧ Fires s.inp.now s.lastFireTick) ∧
      t.out.hbFire = fire ∧
      t.out.rxKind = kindOf s.cfg s.inp.rx ∧
      t.out.canResetReq = t.canResetReq ∧
      t.out.tx = (if dreq then [dreqFrame s.cfg] else []) ++
        (if fire then heartbeatFrames s.cfg s.vcuState else []) ∧
      t.out.diag = transportEvents .rx s.inp.rxFault ++ enumEvents s.cfg s.inp.rx ++
        topKeyEvents s.cfg s.inp.key ++
        (if dreq then transportEvents .tx s.inp.txFaultDreq else []) ++
        (if fire && decide (s.vcuState ≠ .none) then transportEvents .tx s.inp.txFaultHb else []) ∧
      (∀ f, s.inp.rx = some f → kindOf s.cfg (some f) = .bmsHeartbeat →
        t.out.hbState = hbStateOf s.cfg (framePayload f) ∧ t.out.hbSoc = hbSocOf s.cfg (framePayload f) ∧
        (t.out.hbStateReserved = false ↔ NamedCode s.cfg (hbStateOf s.cfg (framePayload f))) ∧
        t.out.drResponse = 0) ∧
      (∀ f, s.inp.rx = some f → kindOf s.cfg (some f) = .bmsDischargeResponse →
        t.out.drResponse = drOf s.cfg (framePayload f) ∧ t.out.hbState = 0 ∧ t.out.hbSoc = 0 ∧
        t.out.hbStateReserved = false) ∧
      (kindOf s.cfg s.inp.rx ≠ .bmsHeartbeat → kindOf s.cfg s.inp.rx ≠ .bmsDischargeResponse →
        t.out.hbState = 0 ∧ t.out.hbSoc = 0 ∧ t.out.hbStateReserved = false ∧ t.out.drResponse = 0)

/-- PASS_RESUME (R158): with no character (R139) no register changes, no frame goes out and nothing is
raised; with a character it is CMD_HBCFG, SCHED_CHECK, its fire condition and TX_HB, in this order, then
`can_reset_req` shows the register. There is no phase 1 and no phase 2. -/
def Obligations.ResumeIsTheSecondKeyThenPhaseFour : Prop :=
  ∀ s : State, s.cmdPhase = .hbConfig → InputTyped s.cfg s.inp →
    (s.inp.key = none → exec .passResume s = .next { s with
      rxBuf := Buffer.empty, txBuf := Buffer.empty, latch := Latches.clear
      out := { Output.clear with canResetReq := s.canResetReq } }) ∧
    (∀ c, s.inp.key = some c → ∃ b d e f,
      exec (.cmdHbcfg c) { s with
        rxBuf := Buffer.empty, txBuf := Buffer.empty, latch := Latches.clear, out := Output.clear } = .next b ∧
      exec .schedCheck b = .next d ∧ exec .schedCheckFire d = .next e ∧ exec .txHb e = .next f ∧
      exec .passResume s = .next { f with out := { f.out with canResetReq := f.canResetReq } })

/-- PASS_RESUME with a character (R158): the second key, then phase 4 with the mode just written. -/
def Obligations.ResumeWithCharacterFinishesThePass : Prop :=
  ∀ (s : State) (c : Byte), s.cmdPhase = .hbConfig → InputTyped s.cfg s.inp → s.inp.key = some c →
    s.cfg.updateTickInNone = false → s.cfg.updateTickOnFault = true →
    ∃ (t : State) (fire : Bool) (mode : VcuState), exec .passResume s = .next t ∧
      mode = (modeOfKey c).getD s.vcuState ∧
      (fire = true ↔ Fires s.inp.now s.lastFireTick) ∧
      t.vcuState = mode ∧ t.cmdPhase = .top ∧
      t.lastFireTick = (if fire && decide (mode ≠ .none) then s.inp.now else s.lastFireTick) ∧
      (t.canResetReq = true ↔
        s.canResetReq = true ∨ (fire = true ∧ mode ≠ .none ∧ s.inp.txFaultHb ≠ 0)) ∧
      t.out.rxKind = .none ∧ t.out.hbState = 0 ∧ t.out.hbSoc = 0 ∧ t.out.hbStateReserved = false ∧
      t.out.drResponse = 0 ∧ t.out.hbFire = fire ∧ t.out.canResetReq = t.canResetReq ∧
      t.out.tx = (if fire then heartbeatFrames s.cfg mode else []) ∧
      t.out.diag = cfgKeyEvents c ++
        (if fire && decide (mode ≠ .none) then transportEvents .tx s.inp.txFaultHb else [])

/-- RESET writes the four registers and leaves the configuration and what is lined up; nothing transient
survives (R210): two states with one configuration and one line-up reset to the same state. -/
def Obligations.ResetGivesTheResetValues : Prop :=
  (∀ s u : State, s.cfg = u.cfg → s.stim = u.stim → s.draws = u.draws → exec .reset s = exec .reset u) ∧
  ∀ s : State, ∃ t, exec .reset s = .next t ∧
    t.lastFireTick = s.cfg.resetLastFireTick ∧ t.vcuState = s.cfg.resetVcuState ∧ t.cmdPhase = .top ∧
    t.canResetReq = false ∧ t.cfg = s.cfg ∧ t.stim = s.stim ∧ t.draws = s.draws ∧
    t.out.tx = [] ∧ t.out.diag = []

/-- The state after reset has the reset values of R31, for every configuration. -/
def Obligations.ResetStateHasTheResetValues : Prop :=
  ∀ cfg : Config,
    (State.resetWith cfg).lastFireTick = cfg.resetLastFireTick ∧
    (State.resetWith cfg).vcuState = cfg.resetVcuState ∧
    (State.resetWith cfg).cmdPhase = .top ∧ (State.resetWith cfg).canResetReq = false ∧
    Config.default.resetLastFireTick = 0 ∧ State.reset = State.resetWith Config.default

/-! ### Every step -/

/-- The invariant holds after reset, whatever the configuration. It speaks of the frame buffers and the output
record, to which the spec gives no reset value (R31 gives the four registers only): that they are empty at
reset, and the buffers' form, are the MODEL's choice (DESIGN CHOICE, log entries 8 and 23). -/
def Obligations.InvariantHoldsAtReset : Prop :=
  ∀ cfg : Config, Inv (State.resetWith cfg)

/-- Every step keeps the invariant: the frame buffers in canonical form, only the block's own frames in
`tx`, only events with a cause in `diag`. -/
def Obligations.StepKeepsTheInvariant : Prop :=
  ∀ s t : State, Inv s → step s = .next t → Inv t

/-- No step changes the configuration: the Bit-Field Table has no runtime mutation (R53). -/
def Obligations.ConfigurationIsConstant : Prop :=
  ∀ s t : State, step s = .next t → t.cfg = s.cfg

/-- Nothing that lives inside a step is retained: two states that agree on the four registers, the
configuration and what is lined up take the same step of the block, outputs included (R20, R26). -/
def Obligations.NothingElseIsRetained : Prop :=
  ∀ (s t : State) (e : LoopEvent), SameRetained s t → nextEvent s = some e → step s = step t

/-- An input that is not sampled has no effect (R29). In a PASS_RESUME: the acknowledge, the frame, its fault
and the discharge-request result; with no character the tick and the heartbeat result as well. In a PASS that
takes `'v'`: the tick and both transmit results. In a PASS without `KEY_DREQ`: the discharge-request result.
In either, where no heartbeat goes out: the heartbeat result. -/
def Obligations.UnsampledInputsHaveNoEffect : Prop :=
  ∀ (s : State) (inp : Input), InputTyped s.cfg s.inp → InputTyped s.cfg inp → s.inp.key = inp.key →
    (s.inp.now = inp.now → s.inp.txFaultHb = inp.txFaultHb →
      forgetInput (exec .passResume s) = forgetInput (exec .passResume { s with inp := inp })) ∧
    (s.inp.key = none →
      forgetInput (exec .passResume s) = forgetInput (exec .passResume { s with inp := inp })) ∧
    (s.inp.now = inp.now → (∀ c, s.inp.key = some c →
        ¬ (Fires s.inp.now s.lastFireTick ∧ (modeOfKey c).getD s.vcuState ≠ .none)) →
      forgetInput (exec .passResume s) = forgetInput (exec .passResume { s with inp := inp })) ∧
    (s.inp.canResetAck = inp.canResetAck → s.inp.rx = inp.rx → s.inp.rxFault = inp.rxFault →
      (s.inp.key = some 0x76 →
        forgetInput (exec .pass s) = forgetInput (exec .pass { s with inp := inp })) ∧
      (s.inp.now = inp.now → (s.inp.key = some s.cfg.keyDreq → s.inp.txFaultDreq = inp.txFaultDreq) →
        (Fires s.inp.now s.lastFireTick → s.vcuState ≠ .none → s.inp.txFaultHb = inp.txFaultHb) →
        forgetInput (exec .pass s) = forgetInput (exec .pass { s with inp := inp })))

/-- No operation but those of R32's W entries changes a register. -/
def Obligations.OperationsWriteOnlyTheirRegisters : Prop :=
  ∀ (i : Instr) (s t : State), exec i s = .next t →
    ((registerWrites i).lastFireTick = false → t.lastFireTick = s.lastFireTick) ∧
    ((registerWrites i).vcuState = false → t.vcuState = s.vcuState) ∧
    ((registerWrites i).cmdPhase = false → t.cmdPhase = s.cmdPhase) ∧
    ((registerWrites i).canResetReq = false → t.canResetReq = s.canResetReq)

/-- Single writer (R141): in a step of the block `VCU_STATE` changes only by RESET, or by a second key
`'s'`, `'d'`, `'n'` taken at HB_CONFIG, to the mode of that key. No frame, fault or tick changes it. -/
def Obligations.OnlyTheSecondKeyChangesTheMode : Prop :=
  ∀ (s t : State) (e : LoopEvent), nextEvent s = some e → step s = .next t → t.vcuState ≠ s.vcuState →
    (e = .reset ∧ t.vcuState = s.cfg.resetVcuState) ∨
    ∃ inp c, e = .iterate inp ∧ s.cmdPhase = .hbConfig ∧ inp.key = some c ∧ modeOfKey c = some t.vcuState

/-- The reset request (R186): in a step of the block `CAN_RESET_REQ` is set only by a transport call that was made
and answered a fault code (in a PASS the receive, the discharge request of `KEY_DREQ`, or the heartbeat of a
phase 4 that fires in a mode other than NONE; in a PASS_RESUME the heartbeat, after the second key), and cleared
only by an acknowledge in a PASS or by RESET. -/
def Obligations.OnlyFaultsRaiseTheResetRequest : Prop :=
  ∀ (s t : State) (e : LoopEvent), nextEvent s = some e → step s = .next t →
    (s.canResetReq = false → t.canResetReq = true →
      ∃ inp, e = .iterate inp ∧
        ((s.cmdPhase = .top ∧ inp.rxFault ≠ 0) ∨
         (s.cmdPhase = .top ∧ inp.key = some s.cfg.keyDreq ∧ inp.txFaultDreq ≠ 0) ∨
         (s.cmdPhase = .top ∧ inp.key ≠ some 0x76 ∧ Fires inp.now s.lastFireTick ∧ s.vcuState ≠ .none ∧
          inp.txFaultHb ≠ 0) ∨
         (s.cmdPhase = .hbConfig ∧ ∃ c, inp.key = some c ∧ Fires inp.now s.lastFireTick ∧
          (modeOfKey c).getD s.vcuState ≠ .none ∧ inp.txFaultHb ≠ 0))) ∧
    (s.canResetReq = true → t.canResetReq = false →
      e = .reset ∨ ∃ inp, e = .iterate inp ∧ s.cmdPhase = .top ∧ inp.canResetAck = true)

/-- The wait (R195, R197): at HB_CONFIG, any number of steps without a character change none of the four
registers and transmit nothing, whatever frames, ticks and faults are offered. -/
def Obligations.WaitIsLeftOnlyByACharacter : Prop :=
  ∀ (s : State) (inputs : List Input), s.cfg.ok = true → s.cmdPhase = .hbConfig → inputs ≠ [] →
    (∀ inp ∈ inputs, InputTyped s.cfg inp ∧ inp.key = none) →
    ∃ t, core.run inputs.length (withIterations s inputs) = .next t ∧
      t.lastFireTick = s.lastFireTick ∧ t.vcuState = s.vcuState ∧ t.cmdPhase = .hbConfig ∧
      t.canResetReq = s.canResetReq ∧ t.out.tx = [] ∧ t.out.hbFire = false ∧ t.out.diag = []

/-- Suppression (R137, R153): from NONE, in either `CMD_PHASE`, any number of steps of the block whose inputs leave
NONE selected (any key at TOP; at HB_CONFIG none, `'n'` or one outside the table) keep NONE and leave
`LAST_FIRE_TICK`, regardless of elapsed ticks, and send no heartbeat: all the last of them transmits is the
discharge request, where it takes `KEY_DREQ` at TOP. Every step is the last of some such run. -/
def Obligations.NoneSuppressesEveryHeartbeat : Prop :=
  ∀ (s : State) (inputs : List Input) (last : Input), s.cfg.ok = true → s.cfg.updateTickInNone = false →
    s.vcuState = .none → (∀ inp ∈ inputs ++ [last], InputTyped s.cfg inp) →
    LeavesNone s.cmdPhase (inputs ++ [last]) →
    ∃ t, core.run (inputs.length + 1) (withIterations s (inputs ++ [last])) = .next t ∧
      t.lastFireTick = s.lastFireTick ∧ t.vcuState = .none ∧
      t.cmdPhase = phaseAfter s.cmdPhase (inputs ++ [last]) ∧
      t.out.tx = if phaseAfter s.cmdPhase inputs = .top ∧ last.key = some s.cfg.keyDreq then [dreqFrame s.cfg]
        else []

/-- The scheduler property (R155): from `LAST_FIRE_TICK = T` in a mode other than NONE, passes that sample
ticks with `now - T <= 1000` transmit no heartbeat, however many they are; the first pass with
`now - T > 1000` transmits exactly one and sets `LAST_FIRE_TICK` to its tick. -/
def Obligations.SchedulerFiresOnceAtTheFirstTickPast1000 : Prop :=
  ∀ (s : State) (quiet : List Input) (last : Input), s.cfg.ok = true → s.cfg.updateTickOnFault = true →
    s.cmdPhase = .top → s.vcuState ≠ .none →
    (∀ inp ∈ quiet, InputTyped s.cfg inp ∧ inp.key = none ∧ ¬ Fires inp.now s.lastFireTick) →
    InputTyped s.cfg last → last.key = none → Fires last.now s.lastFireTick →
    (∃ t, core.run quiet.length (withIterations s quiet) = .next t ∧
      t.lastFireTick = s.lastFireTick ∧ (quiet ≠ [] → t.out.tx = [] ∧ t.out.hbFire = false)) ∧
    (∃ t, core.run (quiet.length + 1) (withIterations s (quiet ++ [last])) = .next t ∧
      t.lastFireTick = last.now ∧ t.vcuState = s.vcuState ∧
      t.out.tx = heartbeatFrames s.cfg s.vcuState ∧ t.out.tx.length = 1)

/-- Equivalence with the software's single iteration (R159): a PASS that takes `'v'`, any number of steps
waiting, and the PASS_RESUME that takes `c` together do what one iteration does that reads both characters:
receive phase on the first step's inputs, the mode of `c`, the scheduler on the last step's tick. -/
def Obligations.SplitPassIsOneIteration : Prop :=
  ∀ (s : State) (first : Input) (waits : List Input) (second : Input) (c : Byte),
    s.cfg.ok = true → s.cfg.updateTickInNone = false → s.cfg.updateTickOnFault = true →
    s.cmdPhase = .top → InputTyped s.cfg first → first.key = some 0x76 →
    (∀ inp ∈ waits, InputTyped s.cfg inp ∧ inp.key = none) →
    InputTyped s.cfg second → second.key = some c →
    ∃ (t : State) (mode : VcuState) (sent : Bool),
      core.run (waits.length + 2) (withIterations s (first :: (waits ++ [second]))) = .next t ∧
      mode = (modeOfKey c).getD s.vcuState ∧
      (sent = true ↔ Fires second.now s.lastFireTick ∧ mode ≠ .none) ∧
      t.vcuState = mode ∧ t.cmdPhase = .top ∧
      t.lastFireTick = (if sent then second.now else s.lastFireTick) ∧
      (t.canResetReq = true ↔ (s.canResetReq = true ∧ first.canResetAck = false) ∨ first.rxFault ≠ 0 ∨
        (sent = true ∧ second.txFaultHb ≠ 0)) ∧
      t.out.tx = (if sent then heartbeatFrames s.cfg mode else [])

/-- The first heartbeat after reset (R213): with `RESET_LAST_FIRE_TICK = 0` and a mode other than NONE, a
first pass without `'v'` or a discharge request transmits the heartbeat exactly when `now` is 1001 or more. -/
def Obligations.FirstHeartbeatAfterReset : Prop :=
  ∀ (cfg : Config) (inp : Input), cfg.ok = true → cfg.resetLastFireTick = 0 → cfg.resetVcuState ≠ .none →
    InputTyped cfg inp → inp.key ≠ some 0x76 → inp.key ≠ some cfg.keyDreq →
    ∃ t, step (withIterations (State.resetWith cfg) [inp]) = .next t ∧
      t.out.tx = if 1001 ≤ inp.now.toNat then heartbeatFrames cfg cfg.resetVcuState else []

/-- The port codes of `VCU_STATE` (R22): STANDBY 0b00, DISCHARGE 0b01, NONE 0b10, and 0b11 is no value. -/
def Obligations.VcuStatePortCodes : Prop :=
  (∀ v : VcuState, VcuState.ofCode v.code = some v) ∧ VcuState.ofCode 0b11 = none ∧
  VcuState.standby.code = 0b00 ∧ VcuState.discharge.code = 0b01 ∧ VcuState.none.code = 0b10

/-- A call code outside the operations: the model's own choice (log entries 5 and 22), with the refusals of R46, R60
and R196. An operand outside its type is refused by name; a code that asks for no operation, or has bytes left
over, is taken off the line-up and changes nothing else. -/
def Obligations.CallsOutsideTheOperationsRunNothing : Prop :=
  ∀ (s : State) (code : List Byte) (inp : Input) (rest : List Stimulus), s.cfg.ok = true →
    s.stim = .call code inp :: rest →
    (decode s.cfg code = .error .lengthRange → step s = .refused .frameLength) ∧
    (∀ id, decode s.cfg code = .error (.identifierRange id) → step s = .refused .identifierRange) ∧
    (decode s.cfg code = .error .descriptorRange → step s = .refused .descriptorRange) ∧
    (∀ e, decode s.cfg code = .error e → e ≠ .lengthRange → (∀ id, e ≠ .identifierRange id) →
      e ≠ .descriptorRange → step s = .next { s with stim := rest }) ∧
    (∀ i more, decode s.cfg code = .ok (i, more) → more ≠ [] → step s = .next { s with stim := rest })
end

