-- ==== Sys2Proof/Laws/Memory.lean ====
section
/-! SUPPORT. Frame buffers: reads after writes, and the canonical form. -/

namespace Sys2Proof.Machine

@[simp] theorem Memory.blank_eq : Memory.blank = 0 := rfl

@[simp] theorem Memory.read_nil (k : Nat) : Memory.read [] k = 0 := rfl

theorem Memory.read_cons (a : Nat) (b : Byte) (rest : Memory) (k : Nat) :
    Memory.read ((a, b) :: rest) k = if a = k then b else Memory.read rest k := rfl

/-! ### Read after write -/

theorem Memory.read_others_same (m : Memory) (k : Nat) : Memory.read (m.filter fun c => c.1 != k) k = 0 := by
  induction m with
  | nil => rfl
  | cons c rest ih =>
    obtain ⟨a, b⟩ := c
    by_cases h : a = k <;> simp [h, ih, Memory.read_cons]

theorem Memory.read_others_other (m : Memory) {j k : Nat} (h : j ≠ k) :
    Memory.read (m.filter fun c => c.1 != k) j = m.read j := by
  induction m with
  | nil => rfl
  | cons c rest ih =>
    obtain ⟨a, b⟩ := c
    by_cases ha : a = k
    · subst ha
      simp [ih, Memory.read_cons, Ne.symm h]
    · simp [ha, ih, Memory.read_cons]

theorem Memory.read_insertCell_other (m : Memory) {j k : Nat} (v : Byte) (h : j ≠ k) :
    (m.insertCell k v).read j = m.read j := by
  induction m with
  | nil => simp [Memory.insertCell, Memory.read_cons, Ne.symm h]
  | cons c rest ih =>
    obtain ⟨a, b⟩ := c
    by_cases ha : k < a <;> simp [Memory.insertCell, ha, Memory.read_cons, ih, Ne.symm h]

theorem Memory.read_insertCell_same (m : Memory) (k : Nat) (v : Byte) (h : ∀ c ∈ m, c.1 ≠ k) :
    (m.insertCell k v).read k = v := by
  induction m with
  | nil => simp [Memory.insertCell, Memory.read_cons]
  | cons c rest ih =>
    obtain ⟨a, b⟩ := c
    have ha : a ≠ k := h (a, b) (by simp)
    have ih' := ih fun c hc => h c (by simp [hc])
    by_cases hk : k < a <;> simp [Memory.insertCell, hk, Memory.read_cons, ha, ih']

/-- A byte written is the byte read back. -/
@[simp] theorem Memory.read_write_same (m : Memory) (k : Nat) (v : Byte) : (m.write k v).read k = v := by
  unfold Memory.write
  by_cases hv : v = Memory.blank
  · simpa [hv] using Memory.read_others_same m k
  · simp only [hv, if_false]
    exact Memory.read_insertCell_same _ _ _ (by simp)

/-- A write leaves every other index alone. -/
theorem Memory.read_write_other (m : Memory) {j k : Nat} (v : Byte) (h : j ≠ k) :
    (m.write k v).read j = m.read j := by
  unfold Memory.write
  by_cases hv : v = Memory.blank
  · simpa [hv] using Memory.read_others_other m h
  · simp only [hv, if_false]
    rw [Memory.read_insertCell_other _ _ h, Memory.read_others_other m h]

theorem Memory.read_write (m : Memory) (j k : Nat) (v : Byte) :
    (m.write k v).read j = if j = k then v else m.read j := by
  by_cases h : j = k
  · subst h; simp
  · simp [h, Memory.read_write_other m v h]

/-! ### The canonical form -/

theorem Memory.wfFrom_cons (lo a : Nat) (b : Byte) (rest : Memory) :
    Memory.wfFrom lo ((a, b) :: rest) = true ↔
      lo ≤ a ∧ a < 8 ∧ b ≠ 0 ∧ Memory.wfFrom (a + 1) rest = true := by
  simp [Memory.wfFrom, and_assoc]

theorem Memory.wfFrom_mono {lo lo' : Nat} (h : lo ≤ lo') (m : Memory) (hm : Memory.wfFrom lo' m = true) :
    Memory.wfFrom lo m = true := by
  cases m with
  | nil => rfl
  | cons c rest =>
    obtain ⟨a, b⟩ := c
    rw [Memory.wfFrom_cons] at hm ⊢
    exact ⟨by omega, hm.2⟩

theorem Memory.wfFrom_others (m : Memory) (k lo : Nat) (hm : Memory.wfFrom lo m = true) :
    Memory.wfFrom lo (m.filter fun c => c.1 != k) = true := by
  induction m generalizing lo with
  | nil => rfl
  | cons c rest ih =>
    obtain ⟨a, b⟩ := c
    rw [Memory.wfFrom_cons] at hm
    by_cases h : a = k
    · simpa [List.filter_cons, h] using
        Memory.wfFrom_mono (by omega) _ (ih (a + 1) hm.2.2.2)
    · simp only [List.filter_cons, bne_iff_ne, ne_eq, h, not_false_eq_true, if_true]
      rw [Memory.wfFrom_cons]
      exact ⟨hm.1, hm.2.1, hm.2.2.1, ih (a + 1) hm.2.2.2⟩

theorem Memory.wfFrom_insertCell (m : Memory) (k lo : Nat) (v : Byte) (hm : Memory.wfFrom lo m = true)
    (hlo : lo ≤ k) (hk : k < 8) (hv : v ≠ 0) (hne : ∀ c ∈ m, c.1 ≠ k) :
    Memory.wfFrom lo (m.insertCell k v) = true := by
  induction m generalizing lo with
  | nil => simpa [Memory.insertCell, Memory.wfFrom_cons, Memory.wfFrom] using ⟨⟨hlo, hk⟩, hv⟩
  | cons c rest ih =>
    obtain ⟨a, b⟩ := c
    rw [Memory.wfFrom_cons] at hm
    have ha : a ≠ k := hne (a, b) (by simp)
    by_cases hka : k < a
    · simp only [Memory.insertCell, hka, if_true]
      rw [Memory.wfFrom_cons, Memory.wfFrom_cons]
      exact ⟨hlo, hk, hv, by omega, hm.2⟩
    · simp only [Memory.insertCell, hka, if_false]
      rw [Memory.wfFrom_cons]
      exact ⟨hm.1, hm.2.1, hm.2.2.1, ih (a + 1) hm.2.2.2 (by omega) fun c hc => hne c (by simp [hc])⟩

/-- A write keeps the canonical form. -/
theorem Memory.wf_write (m : Memory) (k : Nat) (v : Byte) (hk : k < 8) (hm : m.wf = true) :
    (m.write k v).wf = true := by
  have hf := Memory.wfFrom_others m k 0 hm
  unfold Memory.write
  by_cases hv : v = Memory.blank
  · simpa [hv, Memory.wf] using hf
  · simp only [hv, if_false]
    exact Memory.wfFrom_insertCell _ k 0 v hf (by omega) hk hv (by simp)

@[simp] theorem Memory.wf_nil : Memory.wf [] = true := rfl

theorem Memory.read_of_lt_lo (m : Memory) {lo k : Nat} (hm : Memory.wfFrom lo m = true) (h : k < lo) :
    m.read k = 0 := by
  induction m generalizing lo with
  | nil => rfl
  | cons c rest ih =>
    obtain ⟨a, b⟩ := c
    rw [Memory.wfFrom_cons] at hm
    rw [Memory.read_cons, if_neg (by omega)]
    exact ih hm.2.2.2 (by omega)

/-- Two buffers in canonical form that read alike at every index are the same list. -/
theorem Memory.ext_wfFrom (m m' : Memory) (lo : Nat) (hm : Memory.wfFrom lo m = true)
    (hm' : Memory.wfFrom lo m' = true) (h : ∀ k, m.read k = m'.read k) : m = m' := by
  induction m generalizing m' lo with
  | nil =>
    cases m' with
    | nil => rfl
    | cons c rest =>
      obtain ⟨a, b⟩ := c
      rw [Memory.wfFrom_cons] at hm'
      have := h a
      simp [Memory.read_cons] at this
      exact absurd this.symm hm'.2.2.1
  | cons c rest ih =>
    obtain ⟨a, b⟩ := c
    have hm1 := (Memory.wfFrom_cons _ _ _ _).1 hm
    cases m' with
    | nil =>
      have := h a
      simp [Memory.read_cons] at this
      exact absurd this hm1.2.2.1
    | cons c' rest' =>
      obtain ⟨a', b'⟩ := c'
      have hm2 := (Memory.wfFrom_cons _ _ _ _).1 hm'
      have haa : a = a' := by
        rcases Nat.lt_trichotomy a a' with hlt | heq | hgt
        · have h1 := h a
          rw [Memory.read_cons, if_pos rfl, Memory.read_cons, if_neg (by omega),
            Memory.read_of_lt_lo rest' hm2.2.2.2 (by omega)] at h1
          exact absurd h1 hm1.2.2.1
        · exact heq
        · have h1 := h a'
          rw [Memory.read_cons, if_neg (by omega), Memory.read_of_lt_lo rest hm1.2.2.2 (by omega),
            Memory.read_cons, if_pos rfl] at h1
          exact absurd h1.symm hm2.2.2.1
      subst haa
      have hb : b = b' := by simpa [Memory.read_cons] using h a
      subst hb
      have := ih rest' (a + 1) hm1.2.2.2 hm2.2.2.2 fun k => by
        by_cases hk : k = a
        · rw [hk, Memory.read_of_lt_lo rest hm1.2.2.2 (by omega),
            Memory.read_of_lt_lo rest' hm2.2.2.2 (by omega)]
        · simpa [Memory.read_cons, Ne.symm hk] using h k
      rw [this]

theorem Memory.ext_wf {m m' : Memory} (hm : m.wf = true) (hm' : m'.wf = true)
    (h : ∀ k, m.read k = m'.read k) : m = m' :=
  Memory.ext_wfFrom m m' 0 hm hm' h

/-! ### Runs of bytes -/

theorem Memory.read_writeBytes (bs : List Byte) (m : Memory) (k j : Nat) :
    (m.writeBytes k bs).read j = if k ≤ j ∧ j < k + bs.length then bs.getD (j - k) 0 else m.read j := by
  induction bs generalizing m k with
  | nil => simp [Memory.writeBytes]
  | cons b bs ih =>
    rw [Memory.writeBytes, ih, Memory.read_write]
    by_cases hj : j = k
    · subst hj
      simp
    · by_cases hin : k ≤ j ∧ j < k + (b :: bs).length
      · have h1 : k + 1 ≤ j ∧ j < k + 1 + bs.length := by simp at hin; omega
        obtain ⟨d, hd⟩ : ∃ d, j - k = d + 1 := ⟨j - k - 1, by omega⟩
        rw [if_pos h1, if_pos hin, hd, show j - (k + 1) = d from by omega]
        simp
      · have h1 : ¬ (k + 1 ≤ j ∧ j < k + 1 + bs.length) := by simp at hin ⊢; omega
        rw [if_neg h1, if_neg hin, if_neg hj]

theorem Memory.wf_writeBytes (bs : List Byte) (m : Memory) (k : Nat) (h : k + bs.length ≤ 8)
    (hm : m.wf = true) : (m.writeBytes k bs).wf = true := by
  induction bs generalizing m k with
  | nil => exact hm
  | cons b bs ih =>
    simp only [List.length_cons] at h
    exact ih _ _ (by omega) (Memory.wf_write m k b (by omega) hm)

/-- What receiving a frame leaves in the RX buffer. -/
theorem Buffer.receive_read (b : Buffer) (f : Frame) (k : Nat) :
    (b.receive f).mem.read k = if k < 8 then f.bytes.toList.getD k 0 else b.mem.read k := by
  simp [Buffer.receive, Memory.read_writeBytes]

theorem Buffer.receive_wf (b : Buffer) (f : Frame) (h : b.mem.wf = true) : (b.receive f).mem.wf = true :=
  Memory.wf_writeBytes _ _ _ (by simp) h

/-! ### STOREW -/

/-- The bytes STOREW's first `n` rounds have written. -/
theorem storeRounds_read (w : Word) (len : Nat) (m : Memory) (n k : Nat) :
    (storeRounds w len m n).read k =
      if k < n then (if k < len then byteOf w k else 0) else m.read k := by
  induction n with
  | zero => simp [storeRounds]
  | succ n ih =>
    rw [storeRounds, Memory.read_write, ih]
    by_cases hk : k = n
    · subst hk; simp
    · by_cases hlt : k < n
      · simp [hk, hlt, show k < n + 1 by omega]
      · simp [hk, hlt, show ¬ k < n + 1 by omega]

theorem storeWord_read (b : Buffer) (w : Word) (len k : Nat) :
    (storeWord b w len).mem.read k =
      if k < 8 then (if k < len then byteOf w k else 0) else b.mem.read k :=
  storeRounds_read w len b.mem 8 k

theorem storeRounds_wf (w : Word) (len : Nat) (m : Memory) (n : Nat) (hn : n ≤ 8) (hm : m.wf = true) :
    (storeRounds w len m n).wf = true := by
  induction n with
  | zero => exact hm
  | succ n ih => exact Memory.wf_write _ _ _ (by omega) (ih (by omega))

theorem storeWord_wf (b : Buffer) (w : Word) (len : Nat) (hm : b.mem.wf = true) :
    (storeWord b w len).mem.wf = true :=
  storeRounds_wf w len b.mem 8 (by omega) hm

end Sys2Proof.Machine
end

