-- ==== Sys2Proof/Laws/Codec.lean ====
section
/-! SUPPORT. The codec functions bit by bit, and numbers as big-endian bytes. -/

namespace Sys2Proof

/-! ### Big-endian bytes -/

theorem readBE_beBytes (n v : Nat) (rest : List Byte) (h : v < 256 ^ n) :
    readBE n (beBytes n v ++ rest) = some (v, rest) := by
  induction n generalizing v with
  | zero => simp [beBytes, readBE]; omega
  | succ n ih =>
    have hpos : 0 < 256 ^ n := Nat.pow_pos (by omega)
    have hq : v / 256 ^ n < 256 := by
      rw [Nat.div_lt_iff_lt_mul hpos, Nat.mul_comm, ← Nat.pow_succ]; exact h
    simp only [beBytes, List.cons_append, readBE, ih _ (Nat.mod_lt v hpos)]
    simp [BitVec.toNat_ofNat, Nat.mod_eq_of_lt hq, Nat.div_add_mod']

theorem beBytes_of_readBE (n : Nat) (bs rest : List Byte) (v : Nat) (h : readBE n bs = some (v, rest)) :
    v < 256 ^ n ∧ beBytes n v ++ rest = bs := by
  induction n generalizing bs v with
  | zero =>
    simp only [readBE, Option.some.injEq, Prod.mk.injEq] at h
    simp [beBytes, ← h.1, h.2]
  | succ n ih =>
    cases bs with
    | nil => simp [readBE] at h
    | cons b bs =>
      simp only [readBE] at h
      split at h
      · cases h
      · rename_i v' rest' hr
        simp only [Option.some.injEq, Prod.mk.injEq] at h
        obtain ⟨hv, hb⟩ := ih bs v' (by rw [hr, h.2])
        have hpos : 0 < 256 ^ n := Nat.pow_pos (by omega)
        have hb8 : b.toNat < 256 := b.isLt
        obtain ⟨rfl, rfl⟩ := h
        have hdiv : (b.toNat * 256 ^ n + v') / 256 ^ n = b.toNat := by
          rw [Nat.mul_comm, Nat.mul_add_div hpos, Nat.div_eq_of_lt hv, Nat.add_zero]
        have hmod : (b.toNat * 256 ^ n + v') % 256 ^ n = v' := by
          rw [Nat.mul_comm, Nat.mul_add_mod, Nat.mod_eq_of_lt hv]
        refine ⟨?_, ?_⟩
        · rw [Nat.pow_succ, Nat.mul_comm (256 ^ n)]
          calc b.toNat * 256 ^ n + v' < b.toNat * 256 ^ n + 256 ^ n := by omega
            _ = (b.toNat + 1) * 256 ^ n := by ring
            _ ≤ 256 * 256 ^ n := Nat.mul_le_mul_right _ (by omega)
        · simp only [beBytes, hdiv, hmod, List.cons_append, hb, BitVec.ofNat_toNat, BitVec.setWidth_eq]

/-! ### Fields, bit by bit -/

theorem ones_getLsbD (w i : Nat) : (ones w).getLsbD i = (decide (i < 64) && decide (i < w)) := by
  simp [ones, BitVec.getLsbD_ofNat, Nat.testBit_two_pow_sub_one]

theorem fieldmask_getLsbD (start stop i : Nat) (h : stop ≤ start) :
    (fieldmask start stop).getLsbD i = (decide (i < 64) && decide (stop ≤ i) && decide (i ≤ start)) := by
  simp only [fieldmask, BitVec.getLsbD_shiftLeft, ones_getLsbD, fieldWidth]
  rw [Bool.eq_iff_iff]
  simp
  omega

theorem extractBits_getLsbD (w : Word) (start stop i : Nat) (h : stop ≤ start) (h63 : start ≤ 63) :
    (extractBits w start stop).getLsbD i = (decide (i ≤ start - stop) && w.getLsbD (stop + i)) := by
  simp only [extractBits, BitVec.getLsbD_ushiftRight, BitVec.getLsbD_and, fieldmask_getLsbD _ _ _ h]
  by_cases hi : i ≤ start - stop
  · have h1 : stop + i < 64 := by omega
    have h2 : stop + i ≤ start := by omega
    simp [hi, h1, h2]
  · have h2 : ¬ stop + i ≤ start := by omega
    simp [hi, h2]

theorem insertBits_getLsbD (w v : Word) (start stop i : Nat) (h : stop ≤ start) (hi : i < 64) :
    (insertBits w start stop v).getLsbD i =
      if stop ≤ i ∧ i ≤ start then v.getLsbD (i - stop) else w.getLsbD i := by
  simp only [insertBits, BitVec.getLsbD_or, BitVec.getLsbD_and, BitVec.getLsbD_not, BitVec.getLsbD_shiftLeft,
    fieldmask_getLsbD _ _ _ h, ones_getLsbD, fieldWidth]
  by_cases h1 : stop ≤ i <;> by_cases h2 : i ≤ start
  · have : i - stop < start - stop + 1 := by omega
    have : i - stop < 64 := by omega
    simp [*]
  · have : ¬ (i - stop < start - stop + 1) := by omega
    simp [*]
  · simp [*]
  · simp [*]

/-- `extract` as arithmetic (R12): `(W div 2^end) mod 2^w`. -/
theorem extractBits_toNat (w : Word) (start stop : Nat) (h : stop ≤ start) (h63 : start ≤ 63) :
    (extractBits w start stop).toNat = w.toNat / 2 ^ stop % 2 ^ fieldWidth start stop := by
  apply Nat.eq_of_testBit_eq
  intro i
  rw [BitVec.testBit_toNat, extractBits_getLsbD _ _ _ _ h h63, Nat.testBit_mod_two_pow, Nat.testBit_div_two_pow,
    BitVec.testBit_toNat, fieldWidth, Nat.add_comm stop i]
  congr 1
  simp only [decide_eq_decide]
  omega

theorem byteAt_getLsbD (b : Byte) (k i : Nat) :
    (byteAt b k).getLsbD i =
      (decide (i < 64) && decide (56 - 8 * k ≤ i) && b.getLsbD (i - (56 - 8 * k))) := by
  by_cases h64 : i < 64 <;> by_cases hs : 56 - 8 * k ≤ i <;>
    simp [byteAt, h64, hs]

theorem byteOf_getLsbD (w : Word) (k i : Nat) :
    (byteOf w k).getLsbD i = (decide (i < 8) && w.getLsbD (56 - 8 * k + i)) := by
  simp [byteOf]

/-- Byte 0 of a byte placed at byte 0 is that byte. -/
@[simp] theorem byteOf_byteAt_zero (b : Byte) : byteOf (byteAt b 0) 0 = b := by
  apply BitVec.eq_of_getLsbD_eq
  intro i hi
  rw [byteOf_getLsbD, byteAt_getLsbD]
  simp [hi]
  omega

/-- A command byte is its tag shifted to bit 7 (R67, R68). -/
theorem commandByte_eq (tag : BitVec 1) : commandByte tag = tag.setWidth 8 <<< 7 := by
  revert tag; decide

theorem commandByte_inj {a b : BitVec 1} (h : commandByte a = commandByte b) : a = b := by
  revert a b; decide

end Sys2Proof

namespace Sys2Proof.Machine

/-- Bit `i` of a loaded word: bit `i mod 8` of byte `(63 - i) / 8`, where that byte is valid. -/
theorem loadWord_getLsbD (m : Memory) (len i : Nat) (hlen : len ≤ 8) (hi : i < 64) :
    (loadWord m len).getLsbD i =
      (decide ((63 - i) / 8 < len) && (m.read ((63 - i) / 8)).getLsbD (i % 8)) := by
  induction len with
  | zero => simp [loadWord]
  | succ k ih =>
    rw [loadWord, BitVec.getLsbD_or, ih (by omega), byteAt_getLsbD]
    by_cases hk : (63 - i) / 8 = k
    · have h1 : 56 - 8 * k ≤ i := by omega
      have h2 : i - (56 - 8 * k) = i % 8 := by omega
      simp [hk, hi, h1, h2]
    · by_cases hlt : (63 - i) / 8 < k
      · have h1 : (63 - i) / 8 < k + 1 := by omega
        have h2 : ∀ b : Byte, b.getLsbD (i - (56 - 8 * k)) = false := fun b =>
          BitVec.getLsbD_of_ge b _ (by omega)
        simp [hlt, h1, h2]
      · have h1 : ¬ ((63 - i) / 8 < k + 1) := by omega
        have h2 : ¬ (56 - 8 * k ≤ i) := by omega
        simp [hlt, h1, h2]

/-- A loaded word depends on the valid bytes only (R42). -/
theorem loadWord_congr {m m' : Memory} {len : Nat} (h : ∀ k, k < len → m.read k = m'.read k) :
    loadWord m len = loadWord m' len := by
  induction len with
  | zero => rfl
  | succ k ih => rw [loadWord, loadWord, ih fun j hj => h j (by omega), h k (by omega)]

end Sys2Proof.Machine
end

