-- ==== Sys2Proof/Laws/Config.lean ====
section
/-! SUPPORT. What a configuration that passes the check gives, one fact a lemma, and the fields of the
received messages by it. -/

namespace Sys2Proof

theorem Config.layout_of_ok {cfg : Config} (h : cfg.ok = true) :
    cfg.hbStateStart ≤ 63 ∧ cfg.hbStateStart = cfg.hbStateEnd + 2 ∧
    cfg.hbSocStart ≤ 63 ∧ cfg.hbSocStart = cfg.hbSocEnd + 9 ∧
    cfg.drStart ≤ 63 ∧ cfg.drEnd = cfg.drStart ∧
    (cfg.hbStateStart < cfg.hbSocEnd ∨ cfg.hbSocStart < cfg.hbStateEnd) := by
  simp only [Config.ok, Config.layoutOk, descriptorOk, Bool.and_eq_true, decide_eq_true_eq, beq_iff_eq,
    Bool.or_eq_true] at h
  simp only [fieldWidth] at h
  omega

theorem Config.tags_of_ok {cfg : Config} (h : cfg.ok = true) : cfg.tagHbStandby ≠ cfg.tagHbDischarge := by
  simp only [Config.ok, Config.tagsOk, Bool.and_eq_true, bne_iff_ne] at h
  exact h.1.1.2

theorem Config.key_of_ok {cfg : Config} (h : cfg.ok = true) : cfg.keyDreq ≠ keyV := by
  simp only [Config.ok, Config.keysOk, Bool.and_eq_true, bne_iff_ne] at h
  exact h.2

theorem Config.ids_of_ok {cfg : Config} (h : cfg.ok = true) :
    (receivedIds cfg).Nodup ∧ ∀ id ∈ allIds cfg, id < 2 ^ cfg.idWidth := by
  simp only [Config.ok, Config.idsOk, Bool.and_eq_true, decide_eq_true_eq, List.all_eq_true] at h
  exact h.1.2

/-- The `state` field bit by bit. -/
theorem hbStateOf_getLsbD {cfg : Config} (h : cfg.ok = true) (w : Word) (i : Nat) :
    (hbStateOf cfg w).getLsbD i = (decide (i < 3) && w.getLsbD (cfg.hbStateEnd + i)) := by
  have hl := Config.layout_of_ok h
  have hle : cfg.hbStateEnd ≤ cfg.hbStateStart := by omega
  rw [hbStateOf, BitVec.getLsbD_setWidth, extractBits_getLsbD _ _ _ _ hle hl.1]
  by_cases hi : i < 3
  · simp [hi, show i ≤ cfg.hbStateStart - cfg.hbStateEnd by omega]
  · simp [hi]

/-- The `soc_percentage` field bit by bit. -/
theorem hbSocOf_getLsbD {cfg : Config} (h : cfg.ok = true) (w : Word) (i : Nat) :
    (hbSocOf cfg w).getLsbD i = (decide (i < 10) && w.getLsbD (cfg.hbSocEnd + i)) := by
  have hl := Config.layout_of_ok h
  have hle : cfg.hbSocEnd ≤ cfg.hbSocStart := by omega
  rw [hbSocOf, BitVec.getLsbD_setWidth, extractBits_getLsbD _ _ _ _ hle hl.2.2.1]
  by_cases hi : i < 10
  · simp [hi, show i ≤ cfg.hbSocStart - cfg.hbSocEnd by omega]
  · simp [hi]

/-- The response bit. -/
theorem drOf_getLsbD {cfg : Config} (h : cfg.ok = true) (w : Word) (i : Nat) :
    (drOf cfg w).getLsbD i = (decide (i < 1) && w.getLsbD (cfg.drStart + i)) := by
  have hl := Config.layout_of_ok h
  have hle : cfg.drEnd ≤ cfg.drStart := by omega
  rw [drOf, BitVec.getLsbD_setWidth, extractBits_getLsbD _ _ _ _ hle hl.2.2.2.2.1]
  by_cases hi : i < 1
  · simp [show i = 0 by omega, hl.2.2.2.2.2.1]
  · simp [hi]

/-- A packed heartbeat bit by bit: the two fields, and zeros (R114). -/
theorem packHeartbeat_getLsbD {cfg : Config} (h : cfg.ok = true) (st : BitVec 3) (soc : BitVec 10) (b : Nat)
    (hb : b < 64) :
    (packHeartbeat cfg st soc).getLsbD b =
      if cfg.hbStateEnd ≤ b ∧ b ≤ cfg.hbStateStart then st.getLsbD (b - cfg.hbStateEnd)
      else if cfg.hbSocEnd ≤ b ∧ b ≤ cfg.hbSocStart then soc.getLsbD (b - cfg.hbSocEnd) else false := by
  have hl := Config.layout_of_ok h
  have hs : cfg.hbStateEnd ≤ cfg.hbStateStart := by omega
  have hp : cfg.hbSocEnd ≤ cfg.hbSocStart := by omega
  rw [packHeartbeat, insertBits_getLsbD _ _ _ _ _ hp hb, insertBits_getLsbD _ _ _ _ _ hs hb]
  by_cases h1 : cfg.hbStateEnd ≤ b ∧ b ≤ cfg.hbStateStart
  · rw [if_pos h1, if_neg (by omega), if_pos h1, BitVec.getLsbD_setWidth]
    simp [show b - cfg.hbStateEnd < 64 by omega]
  · rw [if_neg h1, if_neg h1, BitVec.getLsbD_setWidth]
    by_cases h2 : cfg.hbSocEnd ≤ b ∧ b ≤ cfg.hbSocStart
    · simp [h2, show b - cfg.hbSocEnd < 64 by omega]
    · simp [h2]

/-- A packed discharge response bit by bit (R115). -/
theorem packDischargeResponse_getLsbD {cfg : Config} (h : cfg.ok = true) (r : BitVec 1) (b : Nat)
    (hb : b < 64) :
    (packDischargeResponse cfg r).getLsbD b = (decide (b = cfg.drStart) && r.getLsbD 0) := by
  have hl := Config.layout_of_ok h
  have hle : cfg.drEnd ≤ cfg.drStart := by omega
  rw [packDischargeResponse, insertBits_getLsbD _ _ _ _ _ hle hb]
  by_cases h1 : b = cfg.drStart
  · rw [if_pos (by omega)]
    simp [h1, hl.2.2.2.2.2.1]
  · rw [if_neg (by omega)]
    simp [h1]

end Sys2Proof
end

