-- ==== Sys2Proof/Laws/State.lean ====
section
/-! SUPPORT. One lemma per field per update of State, so that no later proof unfolds a record update. -/

namespace Sys2Proof.Machine

@[simp] theorem State.withLastFireTick_lastFireTick (s : State) (v : Tick) : (s.withLastFireTick v).lastFireTick = v := rfl
@[simp] theorem State.withLastFireTick_vcuState (s : State) (v : Tick) : (s.withLastFireTick v).vcuState = s.vcuState := rfl
@[simp] theorem State.withLastFireTick_cmdPhase (s : State) (v : Tick) : (s.withLastFireTick v).cmdPhase = s.cmdPhase := rfl
@[simp] theorem State.withLastFireTick_canResetReq (s : State) (v : Tick) : (s.withLastFireTick v).canResetReq = s.canResetReq := rfl
@[simp] theorem State.withLastFireTick_cfg (s : State) (v : Tick) : (s.withLastFireTick v).cfg = s.cfg := rfl
@[simp] theorem State.withLastFireTick_stim (s : State) (v : Tick) : (s.withLastFireTick v).stim = s.stim := rfl
@[simp] theorem State.withLastFireTick_draws (s : State) (v : Tick) : (s.withLastFireTick v).draws = s.draws := rfl
@[simp] theorem State.withLastFireTick_inp (s : State) (v : Tick) : (s.withLastFireTick v).inp = s.inp := rfl
@[simp] theorem State.withLastFireTick_rxBuf (s : State) (v : Tick) : (s.withLastFireTick v).rxBuf = s.rxBuf := rfl
@[simp] theorem State.withLastFireTick_txBuf (s : State) (v : Tick) : (s.withLastFireTick v).txBuf = s.txBuf := rfl
@[simp] theorem State.withLastFireTick_latch (s : State) (v : Tick) : (s.withLastFireTick v).latch = s.latch := rfl
@[simp] theorem State.withLastFireTick_out (s : State) (v : Tick) : (s.withLastFireTick v).out = s.out := rfl

@[simp] theorem State.withVcuState_lastFireTick (s : State) (v : VcuState) : (s.withVcuState v).lastFireTick = s.lastFireTick := rfl
@[simp] theorem State.withVcuState_vcuState (s : State) (v : VcuState) : (s.withVcuState v).vcuState = v := rfl
@[simp] theorem State.withVcuState_cmdPhase (s : State) (v : VcuState) : (s.withVcuState v).cmdPhase = s.cmdPhase := rfl
@[simp] theorem State.withVcuState_canResetReq (s : State) (v : VcuState) : (s.withVcuState v).canResetReq = s.canResetReq := rfl
@[simp] theorem State.withVcuState_cfg (s : State) (v : VcuState) : (s.withVcuState v).cfg = s.cfg := rfl
@[simp] theorem State.withVcuState_stim (s : State) (v : VcuState) : (s.withVcuState v).stim = s.stim := rfl
@[simp] theorem State.withVcuState_draws (s : State) (v : VcuState) : (s.withVcuState v).draws = s.draws := rfl
@[simp] theorem State.withVcuState_inp (s : State) (v : VcuState) : (s.withVcuState v).inp = s.inp := rfl
@[simp] theorem State.withVcuState_rxBuf (s : State) (v : VcuState) : (s.withVcuState v).rxBuf = s.rxBuf := rfl
@[simp] theorem State.withVcuState_txBuf (s : State) (v : VcuState) : (s.withVcuState v).txBuf = s.txBuf := rfl
@[simp] theorem State.withVcuState_latch (s : State) (v : VcuState) : (s.withVcuState v).latch = s.latch := rfl
@[simp] theorem State.withVcuState_out (s : State) (v : VcuState) : (s.withVcuState v).out = s.out := rfl

@[simp] theorem State.withCmdPhase_lastFireTick (s : State) (v : CmdPhase) : (s.withCmdPhase v).lastFireTick = s.lastFireTick := rfl
@[simp] theorem State.withCmdPhase_vcuState (s : State) (v : CmdPhase) : (s.withCmdPhase v).vcuState = s.vcuState := rfl
@[simp] theorem State.withCmdPhase_cmdPhase (s : State) (v : CmdPhase) : (s.withCmdPhase v).cmdPhase = v := rfl
@[simp] theorem State.withCmdPhase_canResetReq (s : State) (v : CmdPhase) : (s.withCmdPhase v).canResetReq = s.canResetReq := rfl
@[simp] theorem State.withCmdPhase_cfg (s : State) (v : CmdPhase) : (s.withCmdPhase v).cfg = s.cfg := rfl
@[simp] theorem State.withCmdPhase_stim (s : State) (v : CmdPhase) : (s.withCmdPhase v).stim = s.stim := rfl
@[simp] theorem State.withCmdPhase_draws (s : State) (v : CmdPhase) : (s.withCmdPhase v).draws = s.draws := rfl
@[simp] theorem State.withCmdPhase_inp (s : State) (v : CmdPhase) : (s.withCmdPhase v).inp = s.inp := rfl
@[simp] theorem State.withCmdPhase_rxBuf (s : State) (v : CmdPhase) : (s.withCmdPhase v).rxBuf = s.rxBuf := rfl
@[simp] theorem State.withCmdPhase_txBuf (s : State) (v : CmdPhase) : (s.withCmdPhase v).txBuf = s.txBuf := rfl
@[simp] theorem State.withCmdPhase_latch (s : State) (v : CmdPhase) : (s.withCmdPhase v).latch = s.latch := rfl
@[simp] theorem State.withCmdPhase_out (s : State) (v : CmdPhase) : (s.withCmdPhase v).out = s.out := rfl

@[simp] theorem State.withCanResetReq_lastFireTick (s : State) (v : Bool) : (s.withCanResetReq v).lastFireTick = s.lastFireTick := rfl
@[simp] theorem State.withCanResetReq_vcuState (s : State) (v : Bool) : (s.withCanResetReq v).vcuState = s.vcuState := rfl
@[simp] theorem State.withCanResetReq_cmdPhase (s : State) (v : Bool) : (s.withCanResetReq v).cmdPhase = s.cmdPhase := rfl
@[simp] theorem State.withCanResetReq_canResetReq (s : State) (v : Bool) : (s.withCanResetReq v).canResetReq = v := rfl
@[simp] theorem State.withCanResetReq_cfg (s : State) (v : Bool) : (s.withCanResetReq v).cfg = s.cfg := rfl
@[simp] theorem State.withCanResetReq_stim (s : State) (v : Bool) : (s.withCanResetReq v).stim = s.stim := rfl
@[simp] theorem State.withCanResetReq_draws (s : State) (v : Bool) : (s.withCanResetReq v).draws = s.draws := rfl
@[simp] theorem State.withCanResetReq_inp (s : State) (v : Bool) : (s.withCanResetReq v).inp = s.inp := rfl
@[simp] theorem State.withCanResetReq_rxBuf (s : State) (v : Bool) : (s.withCanResetReq v).rxBuf = s.rxBuf := rfl
@[simp] theorem State.withCanResetReq_txBuf (s : State) (v : Bool) : (s.withCanResetReq v).txBuf = s.txBuf := rfl
@[simp] theorem State.withCanResetReq_latch (s : State) (v : Bool) : (s.withCanResetReq v).latch = s.latch := rfl
@[simp] theorem State.withCanResetReq_out (s : State) (v : Bool) : (s.withCanResetReq v).out = s.out := rfl

@[simp] theorem State.withInp_lastFireTick (s : State) (v : Input) : (s.withInp v).lastFireTick = s.lastFireTick := rfl
@[simp] theorem State.withInp_vcuState (s : State) (v : Input) : (s.withInp v).vcuState = s.vcuState := rfl
@[simp] theorem State.withInp_cmdPhase (s : State) (v : Input) : (s.withInp v).cmdPhase = s.cmdPhase := rfl
@[simp] theorem State.withInp_canResetReq (s : State) (v : Input) : (s.withInp v).canResetReq = s.canResetReq := rfl
@[simp] theorem State.withInp_cfg (s : State) (v : Input) : (s.withInp v).cfg = s.cfg := rfl
@[simp] theorem State.withInp_stim (s : State) (v : Input) : (s.withInp v).stim = s.stim := rfl
@[simp] theorem State.withInp_draws (s : State) (v : Input) : (s.withInp v).draws = s.draws := rfl
@[simp] theorem State.withInp_inp (s : State) (v : Input) : (s.withInp v).inp = v := rfl
@[simp] theorem State.withInp_rxBuf (s : State) (v : Input) : (s.withInp v).rxBuf = s.rxBuf := rfl
@[simp] theorem State.withInp_txBuf (s : State) (v : Input) : (s.withInp v).txBuf = s.txBuf := rfl
@[simp] theorem State.withInp_latch (s : State) (v : Input) : (s.withInp v).latch = s.latch := rfl
@[simp] theorem State.withInp_out (s : State) (v : Input) : (s.withInp v).out = s.out := rfl

@[simp] theorem State.withRxBuf_lastFireTick (s : State) (v : Buffer) : (s.withRxBuf v).lastFireTick = s.lastFireTick := rfl
@[simp] theorem State.withRxBuf_vcuState (s : State) (v : Buffer) : (s.withRxBuf v).vcuState = s.vcuState := rfl
@[simp] theorem State.withRxBuf_cmdPhase (s : State) (v : Buffer) : (s.withRxBuf v).cmdPhase = s.cmdPhase := rfl
@[simp] theorem State.withRxBuf_canResetReq (s : State) (v : Buffer) : (s.withRxBuf v).canResetReq = s.canResetReq := rfl
@[simp] theorem State.withRxBuf_cfg (s : State) (v : Buffer) : (s.withRxBuf v).cfg = s.cfg := rfl
@[simp] theorem State.withRxBuf_stim (s : State) (v : Buffer) : (s.withRxBuf v).stim = s.stim := rfl
@[simp] theorem State.withRxBuf_draws (s : State) (v : Buffer) : (s.withRxBuf v).draws = s.draws := rfl
@[simp] theorem State.withRxBuf_inp (s : State) (v : Buffer) : (s.withRxBuf v).inp = s.inp := rfl
@[simp] theorem State.withRxBuf_rxBuf (s : State) (v : Buffer) : (s.withRxBuf v).rxBuf = v := rfl
@[simp] theorem State.withRxBuf_txBuf (s : State) (v : Buffer) : (s.withRxBuf v).txBuf = s.txBuf := rfl
@[simp] theorem State.withRxBuf_latch (s : State) (v : Buffer) : (s.withRxBuf v).latch = s.latch := rfl
@[simp] theorem State.withRxBuf_out (s : State) (v : Buffer) : (s.withRxBuf v).out = s.out := rfl

@[simp] theorem State.withTxBuf_lastFireTick (s : State) (v : Buffer) : (s.withTxBuf v).lastFireTick = s.lastFireTick := rfl
@[simp] theorem State.withTxBuf_vcuState (s : State) (v : Buffer) : (s.withTxBuf v).vcuState = s.vcuState := rfl
@[simp] theorem State.withTxBuf_cmdPhase (s : State) (v : Buffer) : (s.withTxBuf v).cmdPhase = s.cmdPhase := rfl
@[simp] theorem State.withTxBuf_canResetReq (s : State) (v : Buffer) : (s.withTxBuf v).canResetReq = s.canResetReq := rfl
@[simp] theorem State.withTxBuf_cfg (s : State) (v : Buffer) : (s.withTxBuf v).cfg = s.cfg := rfl
@[simp] theorem State.withTxBuf_stim (s : State) (v : Buffer) : (s.withTxBuf v).stim = s.stim := rfl
@[simp] theorem State.withTxBuf_draws (s : State) (v : Buffer) : (s.withTxBuf v).draws = s.draws := rfl
@[simp] theorem State.withTxBuf_inp (s : State) (v : Buffer) : (s.withTxBuf v).inp = s.inp := rfl
@[simp] theorem State.withTxBuf_rxBuf (s : State) (v : Buffer) : (s.withTxBuf v).rxBuf = s.rxBuf := rfl
@[simp] theorem State.withTxBuf_txBuf (s : State) (v : Buffer) : (s.withTxBuf v).txBuf = v := rfl
@[simp] theorem State.withTxBuf_latch (s : State) (v : Buffer) : (s.withTxBuf v).latch = s.latch := rfl
@[simp] theorem State.withTxBuf_out (s : State) (v : Buffer) : (s.withTxBuf v).out = s.out := rfl

@[simp] theorem State.withLatch_lastFireTick (s : State) (v : Latches) : (s.withLatch v).lastFireTick = s.lastFireTick := rfl
@[simp] theorem State.withLatch_vcuState (s : State) (v : Latches) : (s.withLatch v).vcuState = s.vcuState := rfl
@[simp] theorem State.withLatch_cmdPhase (s : State) (v : Latches) : (s.withLatch v).cmdPhase = s.cmdPhase := rfl
@[simp] theorem State.withLatch_canResetReq (s : State) (v : Latches) : (s.withLatch v).canResetReq = s.canResetReq := rfl
@[simp] theorem State.withLatch_cfg (s : State) (v : Latches) : (s.withLatch v).cfg = s.cfg := rfl
@[simp] theorem State.withLatch_stim (s : State) (v : Latches) : (s.withLatch v).stim = s.stim := rfl
@[simp] theorem State.withLatch_draws (s : State) (v : Latches) : (s.withLatch v).draws = s.draws := rfl
@[simp] theorem State.withLatch_inp (s : State) (v : Latches) : (s.withLatch v).inp = s.inp := rfl
@[simp] theorem State.withLatch_rxBuf (s : State) (v : Latches) : (s.withLatch v).rxBuf = s.rxBuf := rfl
@[simp] theorem State.withLatch_txBuf (s : State) (v : Latches) : (s.withLatch v).txBuf = s.txBuf := rfl
@[simp] theorem State.withLatch_latch (s : State) (v : Latches) : (s.withLatch v).latch = v := rfl
@[simp] theorem State.withLatch_out (s : State) (v : Latches) : (s.withLatch v).out = s.out := rfl

@[simp] theorem State.withOut_lastFireTick (s : State) (v : Output) : (s.withOut v).lastFireTick = s.lastFireTick := rfl
@[simp] theorem State.withOut_vcuState (s : State) (v : Output) : (s.withOut v).vcuState = s.vcuState := rfl
@[simp] theorem State.withOut_cmdPhase (s : State) (v : Output) : (s.withOut v).cmdPhase = s.cmdPhase := rfl
@[simp] theorem State.withOut_canResetReq (s : State) (v : Output) : (s.withOut v).canResetReq = s.canResetReq := rfl
@[simp] theorem State.withOut_cfg (s : State) (v : Output) : (s.withOut v).cfg = s.cfg := rfl
@[simp] theorem State.withOut_stim (s : State) (v : Output) : (s.withOut v).stim = s.stim := rfl
@[simp] theorem State.withOut_draws (s : State) (v : Output) : (s.withOut v).draws = s.draws := rfl
@[simp] theorem State.withOut_inp (s : State) (v : Output) : (s.withOut v).inp = s.inp := rfl
@[simp] theorem State.withOut_rxBuf (s : State) (v : Output) : (s.withOut v).rxBuf = s.rxBuf := rfl
@[simp] theorem State.withOut_txBuf (s : State) (v : Output) : (s.withOut v).txBuf = s.txBuf := rfl
@[simp] theorem State.withOut_latch (s : State) (v : Output) : (s.withOut v).latch = s.latch := rfl
@[simp] theorem State.withOut_out (s : State) (v : Output) : (s.withOut v).out = v := rfl

end Sys2Proof.Machine
end

