-- ==== Sys2Proof/Laws/Ops.lean ====
section
/-! SUPPORT. What each shared operation does, once: its whole effect as an equation, or every case it has. -/

namespace Sys2Proof.Machine

/-- The whole effect of taking a transport result (R181). -/
theorem transportResult_eq (dir : Direction) (code : Nat) (s : State) :
    transportResult dir code s = { s with
      canResetReq := s.canResetReq || decide (code ≠ 0)
      out := { s.out with diag := s.out.diag ++ transportEvents dir code } } := by
  by_cases h : code = 0
  · simp [transportResult, transportEvents, h]
  · simp [transportResult, transportEvents, raiseDiag, State.withOut, State.withCanResetReq, h]

/-- The eight bytes of a TX buffer after STOREW of one byte. -/
theorem storeByte_toBytes (b : Buffer) (byte : Byte) :
    (storeWord b (byteAt byte 0) 1).mem.toBytes = #v[byte, 0, 0, 0, 0, 0, 0, 0] := by
  simp [Memory.toBytes, storeWord_read]

/-- The whole effect of transmitting one byte (R132, R152). -/
theorem transmitByte_eq (id : Nat) (byte : Byte) (s : State) :
    transmitByte id byte s = { s with
      txBuf := storeWord s.txBuf (byteAt byte 0) 1
      out := { s.out with
        tx := s.out.tx ++ [{ id := id, bytes := #v[byte, 0, 0, 0, 0, 0, 0, 0], len := 1 }] } } := by
  simp only [transmitByte, transmit, Buffer.toFrame, State.withTxBuf, State.withOut, storeByte_toBytes]
  rfl

/-- A command byte as the number its tag stands for at bit 7. -/
theorem commandByte_eq_ofNat (tag : BitVec 1) : commandByte tag = BitVec.ofNat 8 (tag.toNat * 128) := by
  revert tag; decide

/-- The frame of a command byte. -/
theorem tagFrame_eq (id : Nat) (tag : BitVec 1) :
    ({ id := id, bytes := #v[commandByte tag, 0, 0, 0, 0, 0, 0, 0], len := 1 } : Frame) = tagFrame id tag := by
  rw [commandByte_eq_ofNat, tagFrame]

/-- The input check passes exactly the typed records (R196). -/
theorem inputRefusal_eq_none (cfg : Config) (inp : Input) :
    inputRefusal cfg inp = none ↔ InputTyped cfg inp := by
  obtain ⟨ack, rx, rxf, key, now, fd, fh⟩ := inp
  unfold inputRefusal InputTyped
  cases rx with
  | none => simp
  | some f =>
    simp only [Option.map_some, Option.any_some, decide_eq_true_eq]
    by_cases h1 : 8 < f.len
    · simp [h1]
    · by_cases h2 : 2 ^ cfg.idWidth ≤ f.id
      · simp [h1, h2]
      · simp [h1, h2, Nat.not_lt.1 h1, Nat.not_le.1 h2]

/-- An operation on the input record runs on typed records. -/
theorem withTypedInput_of_typed {s : State} (f : State → State) (h : InputTyped s.cfg s.inp) :
    withTypedInput s f = .next (f s) := by
  rw [withTypedInput, (inputRefusal_eq_none _ _).2 h]

/-- An operation on the input record that answers a next state had a typed record. -/
theorem withTypedInput_next {s t : State} {f : State → State} (h : withTypedInput s f = .next t) :
    InputTyped s.cfg s.inp ∧ t = f s := by
  unfold withTypedInput at h
  split at h
  · cases h
  · rename_i hr
    exact ⟨(inputRefusal_eq_none _ _).1 hr, by simpa using h.symm⟩

/-- A code is reserved exactly when it is no named one (R98). -/
theorem stateReserved_eq_true (cfg : Config) (st : BitVec 3) :
    stateReserved cfg st = true ↔ ¬ NamedCode cfg st := by
  constructor
  · rintro h ⟨n, rfl⟩
    cases n <;> simp [stateReserved, stateCodes, stateCode] at h
  · intro h
    simp only [stateReserved, stateCodes, Bool.not_eq_true', List.contains_eq_mem, decide_eq_false_iff_not,
      List.mem_cons, List.not_mem_nil, or_false]
    rintro (h' | h' | h' | h' | h' | h')
    exacts [h ⟨.init, h'.symm⟩, h ⟨.standby, h'.symm⟩, h ⟨.charge, h'.symm⟩, h ⟨.balance, h'.symm⟩,
      h ⟨.discharge, h'.symm⟩, h ⟨.error, h'.symm⟩]

/-- The fire condition, with the wrap written out (R150, R151). -/
theorem fires_elapsedTicks (now last : Tick) : fires (elapsedTicks now last) = true ↔ Fires now last := by
  have h := last.isLt
  have he : (elapsedTicks now last).toNat = (now.toNat + 2 ^ 32 - last.toNat) % 2 ^ 32 := by
    rw [elapsedTicks, BitVec.toNat_sub]
    congr 1
    omega
  unfold fires Fires
  rw [decide_eq_true_eq, he]

/-! ### Fetch and step -/

/-- Every way a step can answer a next state: a configuration that passes the check, and either an operation
that `fetch` names and `exec` completes, or a call that asks for none. -/
theorem step_next {s t : State} (h : step s = .next t) :
    s.cfg.ok = true ∧ ((∃ i s', fetch s = .ok (some i, s') ∧ exec i s' = .next t) ∨ fetch s = .ok (none, t)) := by
  unfold step at h
  split at h
  · rename_i i s' hf
    refine ⟨?_, .inl ⟨i, s', hf, h⟩⟩
    by_contra hc
    simp [fetch, hc] at hf
  · rename_i s' hf
    cases h
    refine ⟨?_, .inr hf⟩
    by_contra hc
    simp [fetch, hc] at hf
  · cases h

/-- An event of the loop driver runs a step of the block. -/
theorem acceptEvent_ne_none (e : LoopEvent) (s s' : State) : acceptEvent e s ≠ (none, s') := by
  cases e <;> simp [acceptEvent]

/-- The call code that asks for an operation decodes to it, with nothing left over. -/
theorem decodeCall_some {cfg : Config} {code : List Byte} {i : Instr} :
    decodeCall cfg code = .ok (some i) ↔ decode cfg code = .ok (i, []) := by
  unfold decodeCall
  rcases decode cfg code with e | ⟨j, _ | _⟩
  · cases e <;> simp [callRefusal]
  · simp
  · simp

/-- What `fetch` can name: an event of the loop driver, lined up or free, or a call. -/
theorem fetch_some {s s' : State} {i : Instr} (h : fetch s = .ok (some i, s')) :
    (s.stim = [] ∧ acceptEvent (Config.freeEvent s.draws) { s with draws := s.draws + 1 } = (some i, s')) ∨
    (∃ e rest, s.stim = .loop e :: rest ∧ acceptEvent e { s with stim := rest } = (some i, s')) ∨
    (∃ code inp rest, s.stim = .call code inp :: rest ∧ decode s.cfg code = .ok (i, []) ∧
      s' = { s with stim := rest, inp := inp }) := by
  unfold fetch at h
  split at h
  · split at h
    · rename_i hs
      exact .inl ⟨hs, by simpa using h⟩
    · rename_i e rest hs
      exact .inr (.inl ⟨e, rest, hs, by simpa using h⟩)
    · rename_i code inp rest hs
      refine .inr (.inr ⟨code, inp, rest, hs, ?_⟩)
      split at h
      · rename_i j hd
        simp only [Except.ok.injEq, Prod.mk.injEq, Option.some.injEq] at h
        exact ⟨decodeCall_some.1 (h.1 ▸ hd), h.2.symm⟩
      · simp at h
      · cases h
  · cases h

/-- Where `fetch` names nothing, a call that asks for no operation was taken off the line-up. -/
theorem fetch_none {s s' : State} (h : fetch s = .ok (none, s')) :
    ∃ code inp rest, s.stim = .call code inp :: rest ∧ decodeCall s.cfg code = .ok none ∧
      s' = { s with stim := rest } := by
  unfold fetch at h
  split at h
  · split at h
    · exact absurd (by simpa using h) (acceptEvent_ne_none _ _ _)
    · exact absurd (by simpa using h) (acceptEvent_ne_none _ _ _)
    · rename_i code inp rest hs
      split at h
      · simp at h
      · rename_i hd
        exact ⟨code, inp, rest, hs, hd, by simpa using h.symm⟩
      · cases h
  · cases h

end Sys2Proof.Machine
end

