-- ==== Sys2Proof/Laws/Steps.lean ====
section
/-! SUPPORT. One lemma per phase and per operation of a step, each the whole effect or every field of it, so
that no later proof unfolds a phase. -/

namespace Sys2Proof.Machine

/-- The rounds of LOADW (R90) are the sum of R42. -/
theorem loadWord_eq_payloadWord (m : Memory) (len : Nat) (hl : len ≤ 8) :
    loadWord m len = payloadWord (fun k => m.read k) len := by
  have key : ∀ n, n ≤ 8 → loadWord m n = payloadWord (fun k => m.read k) n ∧
      (∑ k ∈ Finset.range n, (m.read k).toNat * 2 ^ (56 - 8 * k)) < 2^64 ∧
      (∃ q, (∑ k ∈ Finset.range n, (m.read k).toNat * 2 ^ (56 - 8 * k)) = q * 2^(64 - 8*n)) := by
    intro n
    induction n with
    | zero => intro; simp [loadWord, payloadWord]
    | succ n ih =>
      intro hn
      obtain ⟨h1, h2, q, h3⟩ := ih (by omega)
      have hb := (m.read n).isLt
      have hbl : (m.read n).toNat * 2 ^ (56 - 8 * n) < 2 ^ (64 - 8*n) := by
        rw [show 64 - 8*n = 8 + (56 - 8*n) by omega, pow_add]
        exact Nat.mul_lt_mul_of_pos_right hb (by positivity)
      have hq : q < 2 ^ (8*n) := by
        have : q * 2^(64 - 8*n) < 2^(8*n) * 2^(64-8*n) := by
          rw [← pow_add, show 8*n + (64 - 8*n) = 64 by omega, ← h3]; exact h2
        exact Nat.lt_of_mul_lt_mul_right this
      have hs : q * 2^(64 - 8*n) + (m.read n).toNat * 2 ^ (56 - 8 * n) < 2^64 := by
        have : (q+1) * 2^(64 - 8*n) ≤ 2^(8*n) * 2^(64-8*n) := Nat.mul_le_mul_right _ hq
        rw [← pow_add, show 8*n + (64 - 8*n) = 64 by omega] at this
        rw [Nat.add_mul] at this
        omega
      refine ⟨?_, ?_, ?_⟩
      · rw [loadWord, h1, payloadWord, payloadWord, Finset.sum_range_succ, h3]
        apply BitVec.eq_of_toNat_eq
        have hA : (byteAt (m.read n) n).toNat = (m.read n).toNat * 2 ^ (56 - 8 * n) := by
          simp only [byteAt, BitVec.toNat_shiftLeft, BitVec.toNat_setWidth, Nat.shiftLeft_eq]
          rw [Nat.mod_eq_of_lt (a := (m.read n).toNat) (by omega), Nat.mod_eq_of_lt]
          omega
        rw [BitVec.toNat_or, hA, BitVec.toNat_ofNat, BitVec.toNat_ofNat, Nat.mod_eq_of_lt hs,
          Nat.mod_eq_of_lt (by omega), Nat.mul_comm q,
          Nat.two_pow_add_eq_or_of_lt hbl]
      · rw [Finset.sum_range_succ, h3]; exact hs
      · refine ⟨q * 256 + (m.read n).toNat, ?_⟩
        rw [Finset.sum_range_succ, h3, show 64 - 8*(n+1) = 56 - 8*n by omega,
          show 64 - 8*n = 8 + (56 - 8*n) by omega, pow_add]
        ring
  exact (key len hl).1

/-- A received frame loads as its payload word. -/
theorem loadWord_receive (b : Buffer) (f : Frame) (h : f.len ≤ 8) :
    loadWord (b.receive f).mem f.len = framePayload f := by
  rw [loadWord_eq_payloadWord _ _ h, framePayload, payloadWord, payloadWord]
  congr 1
  apply Finset.sum_congr rfl
  intro k hk
  rw [Buffer.receive_read, if_pos (by simp at hk; omega)]

/-- ROUTE is R92's case analysis. -/
theorem routeRx_eq_kindOf (cfg : Config) (rx : Option Frame) : routeRx cfg rx = kindOf cfg rx := by
  cases rx <;> rfl

/-- The heartbeat arm of RX_PHASE (R97). -/
theorem rxHeartbeat_eq (f : Frame) (s : State) (hl : f.len ≤ 8) :
    rxHeartbeat f s = { s with
      rxBuf := s.rxBuf.receive f
      latch := { s.latch with word := framePayload f }
      out := { s.out with
        hbState := hbStateOf s.cfg (framePayload f)
        hbSoc := hbSocOf s.cfg (framePayload f)
        hbStateReserved := stateReserved s.cfg (hbStateOf s.cfg (framePayload f))
        diag := s.out.diag ++
          if stateReserved s.cfg (hbStateOf s.cfg (framePayload f)) then
            [.unexpectedEnum .bmsHeartbeat .state (hbStateOf s.cfg (framePayload f))] else [] } } := by
  simp only [rxHeartbeat, loadw, receiveFrame, latchWord, State.withLatch, State.withRxBuf,
    loadWord_receive _ _ hl, decHb, classifyState, raiseDiag, State.withOut]
  split <;> simp

/-- The discharge-response arm of RX_PHASE (R97). -/
theorem rxDischargeResponse_eq (f : Frame) (s : State) (hl : f.len ≤ 8) :
    rxDischargeResponse f s = { s with
      rxBuf := s.rxBuf.receive f
      latch := { s.latch with word := framePayload f }
      out := { s.out with drResponse := drOf s.cfg (framePayload f) } } := by
  simp only [rxDischargeResponse, loadw, receiveFrame, latchWord, State.withLatch, State.withRxBuf,
    loadWord_receive _ _ hl, decDr, State.withOut]

/-- RX_PHASE up to and with the clearing of the decoded outputs (R97). -/
def rxRouted (s : State) : State := { s with
  canResetReq := s.canResetReq || decide (s.inp.rxFault ≠ 0)
  out := { s.out with
    rxKind := kindOf s.cfg s.inp.rx, hbState := 0, hbSoc := 0, hbStateReserved := false, drResponse := 0
    diag := s.out.diag ++ transportEvents .rx s.inp.rxFault } }

/-- RX_PHASE: the arm the routing result selects, after the fault and the routing (R97). -/
theorem rxPhase_eq (s : State) :
    rxPhase s =
      match s.inp.rx, kindOf s.cfg s.inp.rx with
      | some f, .bmsHeartbeat => rxHeartbeat f (rxRouted s)
      | some f, .bmsDischargeResponse => rxDischargeResponse f (rxRouted s)
      | _, _ => rxRouted s := by
  unfold rxPhase
  simp only [transportResult_eq, routeRx_eq_kindOf, routeTo, clearDecoded, State.withOut]
  rfl

/-- What RX_PHASE changes, field by field, and what it leaves. -/
theorem rxPhase_fields (s : State) (ht : InputTyped s.cfg s.inp) :
    (rxPhase s).lastFireTick = s.lastFireTick ∧ (rxPhase s).vcuState = s.vcuState ∧
    (rxPhase s).cmdPhase = s.cmdPhase ∧ (rxPhase s).cfg = s.cfg ∧ (rxPhase s).stim = s.stim ∧
    (rxPhase s).draws = s.draws ∧ (rxPhase s).inp = s.inp ∧ (rxPhase s).txBuf = s.txBuf ∧
    (rxPhase s).canResetReq = (s.canResetReq || decide (s.inp.rxFault ≠ 0)) ∧
    (rxPhase s).out.tx = s.out.tx ∧ (rxPhase s).out.hbFire = s.out.hbFire ∧
    (rxPhase s).out.rxKind = kindOf s.cfg s.inp.rx ∧
    (rxPhase s).out.diag = s.out.diag ++ transportEvents .rx s.inp.rxFault ++ enumEvents s.cfg s.inp.rx := by
  rw [rxPhase_eq]
  rcases hrx : s.inp.rx with _ | f
  · simp [rxRouted, kindOf, hrx, enumEvents]
  · have hl := (ht.1 f hrx).1
    rcases hk : kindOf s.cfg (some f) with _ | _ | _ | _ | _
    · simp only [kindOf] at hk; split_ifs at hk
    · simp only [rxHeartbeat_eq _ _ hl, rxRouted, hrx, hk, enumEvents, true_and]
      simp only [stateReserved, List.append_assoc]
      congr 2
      split_ifs <;> simp_all
    · simp only [rxDischargeResponse_eq _ _ hl]
      simp [rxRouted, hrx, hk, enumEvents]
    all_goals simp [rxRouted, hrx, hk, enumEvents]

/-- The decoded outputs RX_PHASE leaves (R97): those of the frame routed, 0 where not selected. -/
theorem rxPhase_decoded (s : State) (ht : InputTyped s.cfg s.inp) :
    (∀ f, s.inp.rx = some f → kindOf s.cfg (some f) = .bmsHeartbeat →
      (rxPhase s).out.hbState = hbStateOf s.cfg (framePayload f) ∧
      (rxPhase s).out.hbSoc = hbSocOf s.cfg (framePayload f) ∧
      ((rxPhase s).out.hbStateReserved = false ↔ NamedCode s.cfg (hbStateOf s.cfg (framePayload f))) ∧
      (rxPhase s).out.drResponse = 0) ∧
    (∀ f, s.inp.rx = some f → kindOf s.cfg (some f) = .bmsDischargeResponse →
      (rxPhase s).out.drResponse = drOf s.cfg (framePayload f) ∧ (rxPhase s).out.hbState = 0 ∧
      (rxPhase s).out.hbSoc = 0 ∧ (rxPhase s).out.hbStateReserved = false) ∧
    (kindOf s.cfg s.inp.rx ≠ .bmsHeartbeat → kindOf s.cfg s.inp.rx ≠ .bmsDischargeResponse →
      (rxPhase s).out.hbState = 0 ∧ (rxPhase s).out.hbSoc = 0 ∧ (rxPhase s).out.hbStateReserved = false ∧
      (rxPhase s).out.drResponse = 0) := by
  rw [rxPhase_eq]
  refine ⟨fun f hrx hk => ?_, fun f hrx hk => ?_, fun h1 h2 => ?_⟩
  · simp only [hrx, hk, rxHeartbeat_eq _ _ (ht.1 f hrx).1, rxRouted, true_and, and_true]
    rw [← Bool.not_eq_true, stateReserved_eq_true, not_not]
  · simp only [hrx, hk, rxDischargeResponse_eq _ _ (ht.1 f hrx).1, rxRouted, and_self]
  · split
    · contradiction
    · contradiction
    · simp only [rxRouted, and_self]

/-- A discharge request (R132). -/
theorem dischargeRequest_eq (s : State) :
    dischargeRequest s = { s with
      canResetReq := s.canResetReq || decide (s.inp.txFaultDreq ≠ 0)
      txBuf := storeWord s.txBuf (byteAt (dreqByte s.cfg) 0) 1
      latch := { s.latch with byte := dreqByte s.cfg }
      out := { s.out with
        tx := s.out.tx ++ [dreqFrame s.cfg]
        diag := s.out.diag ++ transportEvents .tx s.inp.txFaultDreq } } := by
  simp only [dischargeRequest, latchByte, State.withLatch, transmitByte_eq, transportResult_eq, dreqFrame,
    dreqByte, tagFrame_eq]

/-- The TX buffer after STOREW of one byte. -/
theorem storeByte_read (b : Buffer) (byte : Byte) (k : Nat) :
    (storeWord b (byteAt byte 0) 1).mem.read k =
      if k = 0 then byte else if k < 8 then 0 else b.mem.read k := by
  rw [storeWord_read]
  by_cases h : k < 8
  · by_cases h0 : k = 0
    · subst h0; simp
    · simp [h, h0, show ¬ k < 1 by omega]
  · simp [h, show k ≠ 0 by omega]

/-- The TX buffer after STOREW of a command byte holds its frame. -/
theorem storeByte_tagFrame (b : Buffer) (id : Nat) (tag : BitVec 1) (k : Nat) (h : k < 8) :
    (storeWord b (byteAt (commandByte tag) 0) 1).mem.read k = (tagFrame id tag).bytes.toList.getD k 0 := by
  rw [storeByte_read, ← tagFrame_eq]
  simp only [h, if_true]
  have : k = 0 ∨ k = 1 ∨ k = 2 ∨ k = 3 ∨ k = 4 ∨ k = 5 ∨ k = 6 ∨ k = 7 := by omega
  rcases this with rfl | rfl | rfl | rfl | rfl | rfl | rfl | rfl <;> simp

/-- CMD_HBCFG (R134). -/
theorem cmdHbcfg_eq (c : Byte) (s : State) :
    cmdHbcfg c s = { s with
      vcuState := (modeOfKey c).getD s.vcuState
      cmdPhase := .top
      out := { s.out with diag := s.out.diag ++ cfgKeyEvents c } } := by
  have e1 : (0x73 : Byte) = keyS := rfl
  have e2 : (0x64 : Byte) = keyD := rfl
  have e3 : (0x6E : Byte) = keyN := rfl
  unfold cmdHbcfg cfgKeyEvents modeOfKey
  rw [e1, e2, e3]
  split_ifs <;> simp_all [setMode, State.withVcuState, State.withCmdPhase, leaveSubmenu, unrecognised,
    raiseDiag, State.withOut]

/-- What CMD_PHASE_3 never touches (R130 to R133). -/
theorem cmdPhase3_frame (s : State) : (cmdPhase3 s).lastFireTick = s.lastFireTick ∧
    (cmdPhase3 s).vcuState = s.vcuState ∧ (cmdPhase3 s).cfg = s.cfg ∧ (cmdPhase3 s).inp = s.inp
    ∧ (cmdPhase3 s).stim = s.stim ∧ (cmdPhase3 s).draws = s.draws := by
  unfold cmdPhase3
  split
  · simp
  · unfold cmdTop
    split_ifs
    · exact ⟨rfl, rfl, rfl, rfl, rfl, rfl⟩
    · rw [dischargeRequest_eq]; simp
    · exact ⟨rfl, rfl, rfl, rfl, rfl, rfl⟩

/-- What CMD_PHASE_3 changes, field by field (R130 to R133). -/
theorem cmdPhase3_fields (s : State) (hc : s.cfg.ok = true) :
    (cmdPhase3 s).lastFireTick = s.lastFireTick ∧ (cmdPhase3 s).vcuState = s.vcuState ∧
    (cmdPhase3 s).cmdPhase = (if s.inp.key = some 0x76 then .hbConfig else s.cmdPhase) ∧
      (cmdPhase3 s).cfg = s.cfg ∧ (cmdPhase3 s).stim = s.stim ∧
    (cmdPhase3 s).draws = s.draws ∧ (cmdPhase3 s).inp = s.inp ∧ (cmdPhase3 s).rxBuf = s.rxBuf ∧
    (cmdPhase3 s).canResetReq = (s.canResetReq || decide (s.inp.key = some s.cfg.keyDreq ∧
      s.inp.txFaultDreq ≠ 0)) ∧
    (cmdPhase3 s).out.tx = s.out.tx ++ (if s.inp.key = some s.cfg.keyDreq then [dreqFrame s.cfg] else []) ∧
    (cmdPhase3 s).out.hbFire = s.out.hbFire ∧
    (cmdPhase3 s).out.rxKind = s.out.rxKind ∧
    (cmdPhase3 s).out.diag = s.out.diag ++ topKeyEvents s.cfg s.inp.key ++
      (if s.inp.key = some s.cfg.keyDreq then transportEvents .tx s.inp.txFaultDreq else []) := by
  have hk := Config.key_of_ok hc
  unfold cmdPhase3
  rcases hkey : s.inp.key with _ | c
  · simp [topKeyEvents]
  · simp only [cmdTop, topKeyEvents, show (0x76 : Byte) = keyV from rfl]
    by_cases h1 : c = keyV
    · subst h1
      simp [openSubmenu, State.withCmdPhase, Ne.symm hk]
    · rw [if_neg h1]
      by_cases h2 : c = s.cfg.keyDreq
      · rw [if_pos h2, dischargeRequest_eq]
        subst h2
        simp [h1]
      · rw [if_neg h2]
        simp [unrecognised, raiseDiag, State.withOut, h1, h2]

/-- CMD_PHASE_3 leaves the decoded outputs (R130 to R133). -/
theorem cmdPhase3_decoded (s : State) : (cmdPhase3 s).out.hbState = s.out.hbState ∧
    (cmdPhase3 s).out.hbSoc = s.out.hbSoc ∧ (cmdPhase3 s).out.hbStateReserved = s.out.hbStateReserved ∧
    (cmdPhase3 s).out.drResponse = s.out.drResponse := by
  unfold cmdPhase3
  split
  · simp
  · unfold cmdTop
    split_ifs
    · exact ⟨rfl, rfl, rfl, rfl⟩
    · rw [dischargeRequest_eq]; simp
    · exact ⟨rfl, rfl, rfl, rfl⟩

/-- TX_HB, under every reading of D13 and D14 (R152, R153). -/
theorem txHb_eq (s : State) :
    txHb s =
      if s.out.hbFire then
        if s.vcuState = .none then { s with
          lastFireTick := if s.cfg.updateTickInNone then s.inp.now else s.lastFireTick
          latch := { s.latch with rendered := none } }
        else { s with
          lastFireTick :=
            if s.inp.txFaultHb = 0 ∨ s.cfg.updateTickOnFault = true then s.inp.now else s.lastFireTick
          canResetReq := s.canResetReq || decide (s.inp.txFaultHb ≠ 0)
          txBuf := storeWord s.txBuf (byteAt ((renderByte s.cfg s.vcuState).getD 0) 0) 1
          latch := { s.latch with rendered := renderByte s.cfg s.vcuState }
          out := { s.out with
            tx := s.out.tx ++ heartbeatFrames s.cfg s.vcuState
            diag := s.out.diag ++ transportEvents .tx s.inp.txFaultHb } }
      else s := by
  unfold txHb
  by_cases hf : s.out.hbFire = true
  · rw [if_pos hf, if_pos hf]
    by_cases hv : s.vcuState = .none
    · rw [if_pos hv]
      simp only [txRendered, render, renderByte, hv, State.withLatch, skipHeartbeat, stampIf]
      split <;> simp_all [State.withLastFireTick]
    · rw [if_neg hv]
      have hr : ∃ b tag, renderByte s.cfg s.vcuState = some b ∧ b = commandByte tag ∧
        heartbeatFrames s.cfg s.vcuState = [tagFrame s.cfg.idVcuHeartbeat tag] := by
        cases h : s.vcuState
        · exact ⟨_, _, rfl, rfl, rfl⟩
        · exact ⟨_, _, rfl, rfl, rfl⟩
        · exact absurd h hv
      obtain ⟨b, tag, hb, ht, hh⟩ := hr
      simp only [txRendered, render, State.withLatch, hb, sendHeartbeat, transmitByte_eq,
        transportResult_eq, stampIf, stampsOn, hh, ht, tagFrame_eq, Option.getD_some, Bool.or_eq_true,
        decide_eq_true_eq]
      split <;> rfl
  · rw [if_neg hf, if_neg hf]

/-- Phase 4, field by field (R150 to R153, R157). -/
theorem schedule_fields (s : State) :
    (schedule s).vcuState = s.vcuState ∧ (schedule s).cmdPhase = s.cmdPhase ∧ (schedule s).cfg = s.cfg ∧
    (schedule s).stim = s.stim ∧ (schedule s).draws = s.draws ∧ (schedule s).inp = s.inp ∧
      (schedule s).rxBuf = s.rxBuf ∧
    (schedule s).lastFireTick = (if fires (elapsedTicks s.inp.now s.lastFireTick) then
      (if s.vcuState = .none then (if s.cfg.updateTickInNone then s.inp.now else s.lastFireTick)
       else if s.inp.txFaultHb = 0 ∨ s.cfg.updateTickOnFault = true then s.inp.now else s.lastFireTick)
      else s.lastFireTick) ∧
    (schedule s).canResetReq = (s.canResetReq || decide (fires (elapsedTicks s.inp.now s.lastFireTick) = true ∧
      s.vcuState ≠ .none ∧ s.inp.txFaultHb ≠ 0)) ∧
    (schedule s).out.hbFire = fires (elapsedTicks s.inp.now s.lastFireTick) ∧
    (schedule s).out.tx = s.out.tx ++
      (if fires (elapsedTicks s.inp.now s.lastFireTick) then heartbeatFrames s.cfg s.vcuState else []) ∧
    (schedule s).out.diag = s.out.diag ++ (if fires (elapsedTicks s.inp.now s.lastFireTick) = true ∧
      s.vcuState ≠ .none then transportEvents .tx s.inp.txFaultHb else []) ∧
    (schedule s).out.rxKind = s.out.rxKind ∧ (schedule s).out.hbState = s.out.hbState ∧
      (schedule s).out.hbSoc = s.out.hbSoc ∧
    (schedule s).out.hbStateReserved = s.out.hbStateReserved ∧
      (schedule s).out.drResponse = s.out.drResponse := by
  unfold schedule
  rw [txHb_eq]
  simp only [schedFire, schedCheck, State.withOut, State.withLatch]
  by_cases hf : fires (elapsedTicks s.inp.now s.lastFireTick) = true
  · simp only [hf, if_true]
    by_cases hv : s.vcuState = .none
    · simp [hv, heartbeatFrames]; split_ifs <;> simp_all
    · simp [hv]; refine ⟨by split_ifs <;> simp_all, by by_cases h : s.inp.txFaultHb = 0 <;> simp [h]⟩
  · simp [hf]

/-- The start of a PASS with its phase 1 (R157, R186). -/
theorem acknowledge_beginStep (s : State) : acknowledge (beginStep s) = { s with
    canResetReq := s.canResetReq && !s.inp.canResetAck
    rxBuf := Buffer.empty, txBuf := Buffer.empty, latch := Latches.clear, out := Output.clear } := by
  unfold acknowledge beginStep
  simp only [State.withOut, State.withLatch, State.withRxBuf, State.withTxBuf, State.withCanResetReq]
  by_cases h : s.inp.canResetAck = true <;> simp [h]

/-- PASS runs where it is enabled. -/
theorem exec_pass {s : State} (hp : s.cmdPhase = .top) (ht : InputTyped s.cfg s.inp) :
    exec .pass s = .next (passStep s) := by
  show (if _ then _ else _) = _
  rw [if_pos hp, withTypedInput_of_typed _ ht]

/-- PASS_RESUME runs where it is enabled. -/
theorem exec_passResume {s : State} (hp : s.cmdPhase = .hbConfig) (ht : InputTyped s.cfg s.inp) :
    exec .passResume s = .next (resumeStep s) := by
  show (if _ then _ else _) = _
  rw [if_pos hp, withTypedInput_of_typed _ ht]

/-- A PASS that answers a next state was enabled. -/
theorem exec_pass_next {s t : State} (h : exec .pass s = .next t) : s.cmdPhase = .top ∧
    InputTyped s.cfg s.inp ∧ t = passStep s := by
  by_cases hp : s.cmdPhase = .top
  · have : withTypedInput s passStep = .next t := by rw [← h]; show _ = (if _ then _ else _); rw [if_pos hp]
    exact ⟨hp, withTypedInput_next this⟩
  · have : exec .pass s = .refused .stepNotEnabled := by show (if _ then _ else _) = _; rw [if_neg hp]
    rw [this] at h; cases h

/-- A PASS_RESUME that answers a next state was enabled. -/
theorem exec_passResume_next {s t : State} (h : exec .passResume s = .next t) : s.cmdPhase = .hbConfig ∧
    InputTyped s.cfg s.inp ∧ t = resumeStep s := by
  by_cases hp : s.cmdPhase = .hbConfig
  · have : withTypedInput s resumeStep = .next t := by rw [← h]; show _ = (if _ then _ else _); rw [if_pos hp]
    exact ⟨hp, withTypedInput_next this⟩
  · have : exec .passResume s = .refused .stepNotEnabled := by show (if _ then _ else _) = _; rw [if_neg hp]
    rw [this] at h; cases h

end Sys2Proof.Machine
end

