-- ==== Sys2Proof/Tests/Slice0.lean ====
section
/-! SUPPORT. The author's tests. Expected results are from spec/95_test_vectors.md (named by section) or worked
by hand from the rule named; none is taken from the model. The witnesses at the end meet the hypotheses of the
statements of Certificates/Slice0/Obligations.lean, each clause at a boundary of its range. -/

namespace Sys2Proof.Tests

open Sys2Proof Sys2Proof.Machine

/-- The next state, if there is one. -/
def nextOf : Result → Option State
  | .next s => some s
  | .fault _ => none
  | .refused _ => none

/-- What `f` reads in the state after `i`. -/
def after {α : Type} (i : Instr) (s : State) (f : State → α) : Option α := (nextOf (exec i s)).map f

/-- The register tuple of spec/95_test_vectors.md. -/
def regs (s : State) : Tick × VcuState × CmdPhase × Bool := (s.lastFireTick, s.vcuState, s.cmdPhase, s.canResetReq)

/-- A state with these registers and this input record. -/
def at' (last : Tick) (mode : VcuState) (phase : CmdPhase) (req : Bool) (inp : Input) : State :=
  { State.reset with lastFireTick := last, vcuState := mode, cmdPhase := phase, canResetReq := req, inp := inp }

/-- A received frame. -/
def frame (id : Nat) (b : Vector Byte 8) (len : Nat) : Frame := { id := id, bytes := b, len := len }

/-- A state whose RX buffer holds these bytes. -/
def holding (b : Vector Byte 8) : State := { State.reset with rxBuf := Buffer.empty.receive (frame 1 b 8) }

/-- What a call code decodes to, with what is left over. -/
def decoded (bs : List Byte) : Option (Instr × List Byte) :=
  match decode Config.default bs with
  | .ok r => some r
  | .error _ => none

/-! ### Well-formedness: an ill-formed term for each check -/

theorem test_wf_loadw : Instr.wf Config.default (.loadw 9) = false := by decide
theorem test_wf_storew : Instr.wf Config.default (.storew 0 9) = false := by decide
theorem test_wf_extract_order : Instr.wf Config.default (.extract 0 3 4 false) = false := by decide
theorem test_wf_extract_range : Instr.wf Config.default (.extract 0 64 0 false) = false := by decide
theorem test_wf_insert_order : Instr.wf Config.default (.insert 0 3 4 0) = false := by decide
theorem test_wf_insert_range : Instr.wf Config.default (.insert 0 64 0 0) = false := by decide
theorem test_wf_route_known : Instr.wf Config.default (.routeUnknown 5) = false := by decide
theorem test_wf_route_wide : Instr.wf Config.default (.routeUnknown 2048) = false := by decide
theorem test_wf_top_v : Instr.wf Config.default (.cmdTopOther 0x76) = false := by decide
theorem test_wf_top_dreq : Instr.wf Config.default (.cmdTopOther 0x72) = false := by decide
theorem test_wf_cfg_s : Instr.wf Config.default (.cmdHbcfgOther 0x73) = false := by decide
theorem test_wf_cfg_d : Instr.wf Config.default (.cmdHbcfgOther 0x64) = false := by decide
theorem test_wf_cfg_n : Instr.wf Config.default (.cmdHbcfgOther 0x6E) = false := by decide
theorem test_wf_good : Instr.wf Config.default (.insert 0 63 61 7) = true := by decide

/-! ### Configurations outside R8 -/

theorem test_cfg_default : Config.default.ok = true := by decide
theorem test_cfg_overlap : ({ Config.default with hbSocStart := 61, hbSocEnd := 52 } : Config).ok = false := by decide
theorem test_cfg_width : ({ Config.default with hbStateEnd := 62 } : Config).ok = false := by decide
theorem test_cfg_codes : ({ Config.default with codeError := 4 } : Config).ok = false := by decide
theorem test_cfg_tags : ({ Config.default with tagHbDischarge := 0 } : Config).ok = false := by decide
theorem test_cfg_ids : ({ Config.default with idBmsErrors := 4 } : Config).ok = false := by decide
theorem test_cfg_one_heartbeat_id : ({ Config.default with idVcuHeartbeat := 1 } : Config).ok = true := by decide
theorem test_cfg_key : ({ Config.default with keyDreq := 0x76 } : Config).ok = false := by decide

/-! ### Decoding: words written out from the spec's encodings -/

/-- R65: `sss pppppppppp` and 51 ignored bits, state 1, SOC 1 (S1). -/
theorem test_decode_hb : decodeTableWord 64 (0b001#3 ++ 0b0000000001#10 ++ 0#51).toNat =
    some (.decHb 0x2008000000000000) := by decide
/-- R66: bit 63, then 63 ignored bits. -/
theorem test_decode_dr : decoded [0x02, 0b10000000, 0, 0, 0, 0, 0, 0, 0] =
    some (.decDr 0x8000000000000000, []) := by decide
/-- R67: bit 7 is the tag, bits 6:0 zero. -/
theorem test_decode_hbcmd : decoded [0x03, 0b00000000] = some (.encHbcmdStandby, []) ∧
    decoded [0x03, 0b10000000] = some (.encHbcmdDischarge, []) ∧ decoded [0x03, 0b00000001] = none := by decide
/-- R68. -/
theorem test_decode_dreq : decoded [0x04, 0b10000000] = some (.encDreq, []) ∧ decoded [0x04, 0] = none := by decide
/-- R65 packed: state 5, SOC 513 (S2); a bit outside the fields is refused (R114). -/
theorem test_decode_bmshb : decoded [0x05, 0b10110000, 0b00001000, 0, 0, 0, 0, 0, 0] = some (.encBmshb 5 513, []) ∧
    decoded [0x05, 0b10110000, 0b00001100, 0, 0, 0, 0, 0, 0] = none := by decide
/-- R66 packed. -/
theorem test_decode_bmsdr : decoded [0x06, 0b10000000, 0, 0, 0, 0, 0, 0, 0] = some (.encBmsdr 1, []) := by decide
/-- R49, R92: the identifiers of the default configuration, and one that is none of them. -/
theorem test_decode_route : decoded [0x07, 0, 1] = some (.routeBmsHeartbeat, []) ∧
    decoded [0x07, 0, 2] = some (.routeBmsDischargeResponse, []) ∧ decoded [0x07, 0, 3] = some (.routeBmsPackStatus, []) ∧
    decoded [0x07, 0, 4] = some (.routeBmsCellTemps, []) ∧ decoded [0x07, 0, 5] = some (.routeBmsErrors, []) ∧
    decoded [0x08] = some (.routeNone, []) := by decide +kernel
/-- The identifiers as words of their own bits, in whole bytes: 1, and 0, which is none of the five. -/
theorem test_decode_route_word : decodeTableWord 16 0b00000000001 = some .routeBmsHeartbeat ∧
    decodeTableWord 16 0b00000000000 = some (.routeUnknown 0) := by decide +kernel
theorem test_decode_route_unknown : decoded [0x07, 7, 0xFF] = some (.routeUnknown 2047, []) ∧
    decoded [0x07, 8, 0] = none := by decide +kernel
/-- R76: `'v'` 0x76, `'r'` 0x72, and `'s'` at the top level is another key. -/
theorem test_decode_top : decodeTableWord 8 0b01110110 = some .cmdTopV ∧
    decodeTableWord 8 0b01110010 = some .cmdTopKeyDreq ∧ decoded [0x09, 0x73] = some (.cmdTopOther 0x73, []) ∧
    decoded [0x0C] = some (.cmdTopNone, []) := by decide
/-- R77: `'s'` 0x73, `'d'` 0x64, `'n'` 0x6E, and `'v'` is another key. -/
theorem test_decode_cfg : decodeTableWord 8 0b01110011 = some .cmdHbcfgS ∧
    decodeTableWord 8 0b01100100 = some .cmdHbcfgD ∧ decodeTableWord 8 0b01101110 = some .cmdHbcfgN ∧
    decoded [0x0A, 0x76] = some (.cmdHbcfgOther 0x76, []) ∧ decoded [0x0B] = some (.cmdHbcfgNone, []) := by decide
/-- R81: the rows with no selecting encoding, by their numbers (log entry 5). -/
theorem test_decode_codec_functions : decoded [0x0D, 0, 8] = some (.loadw 8, []) ∧ decoded [0x0D, 0, 9] = none ∧
    decoded [0x0D, 1, 0xB0, 8, 0, 0, 0, 0, 0, 0, 60, 51, 0] = some (.extract 0xB008000000000000 60 51 false, []) ∧
    decoded [0x0D, 2, 6] = some (.classifyState 6, []) := by decide
theorem test_decode_insert_storew :
    decoded [0x0D, 4, 0, 0, 0, 0, 0, 0, 0, 0, 60, 51, 0, 0, 0, 0, 0, 0, 2, 1] = some (.insert 0 60 51 0x201, []) ∧
    decoded [0x0D, 5, 0x80, 0, 0, 0, 0, 0, 0, 0, 1] = some (.storew 0x8000000000000000 1, []) := by decide
theorem test_decode_step_functions : decoded [0x0D, 3] = some (.rxPhase, []) ∧ decoded [0x0D, 6] = some (.cmdPhase3, []) ∧
    decoded [0x0D, 7, 0x73] = some (.cmdHbcfg 0x73, []) ∧ decoded [0x0D, 8] = some (.render, []) ∧
    decoded [0x0D, 9] = some (.schedCheck, []) := by decide
theorem test_decode_phase4_functions : decoded [0x0D, 10] = some (.schedCheckFire, []) ∧
    decoded [0x0D, 11] = some (.txHb, []) ∧ decoded [0x0D, 12] = some (.txHbNone, []) ∧
    decoded [0x0D, 13] = some (.pass, []) ∧ decoded [0x0D, 14] = some (.passResume, []) ∧
    decoded [0x0D, 15] = some (.reset, []) ∧ decoded [0x0D, 16] = none ∧ decoded [] = none := by decide

/-! ### Decode operations (95_test_vectors.md 2.1 to 2.3, 2.6) -/

/-- 2.1, row 4. -/
theorem test_loadw_short : after (.loadw 2) (holding #v[0xB0, 0x08, 0xAA, 0xBB, 0xCC, 0xDD, 0xEE, 0xFF])
    (·.latch.word) = some 0xB008000000000000 := by decide
/-- 2.1, row 2. -/
theorem test_loadw_full : after (.loadw 8) (holding #v[0x01, 0x23, 0x45, 0x67, 0x89, 0xAB, 0xCD, 0xEF])
    (·.latch.word) = some 0x0123456789ABCDEF := by decide
/-- 2.2, row 6: across byte boundaries. -/
theorem test_extract : after (.extract 0x123456789ABCDEF0 39 24 false) State.reset (·.latch.field) = some 0x789A := by
  decide
/-- R63: 0b101 as a signed 3-bit value is -3. -/
theorem test_extract_signed : after (.extract 0xB008000000000000 63 61 true) State.reset (·.latch.field) =
    some 0xFFFFFFFFFFFFFFFD := by decide
/-- S2. -/
theorem test_decHb : after (.decHb 0xB008000000000000) State.reset (fun t => (t.out.hbState, t.out.hbSoc)) =
    some (5, 513) := by decide
/-- 2.3: all 51 ignored bits set. -/
theorem test_decHb_ignored : after (.decHb 0x0007FFFFFFFFFFFF) State.reset (fun t => (t.out.hbState, t.out.hbSoc)) =
    some (0, 0) := by decide
/-- S3. -/
theorem test_decDr_ready : after (.decDr 0x8000000000000000) State.reset (·.out.drResponse) = some 1 := by decide
theorem test_decDr_notReady : after (.decDr 0x7FFFFFFFFFFFFFFF) State.reset (·.out.drResponse) = some 0 := by decide
/-- R98. -/
theorem test_classify_named : after (.classifyState 5) State.reset (·.out.hbStateReserved) = some false := by decide
theorem test_classify_reserved : after (.classifyState 6) State.reset (·.out.hbStateReserved) = some true := by decide
/-- R92. -/
theorem test_route_handled : after .routeBmsHeartbeat State.reset (·.out.rxKind) = some .bmsHeartbeat ∧
    after .routeBmsDischargeResponse State.reset (·.out.rxKind) = some .bmsDischargeResponse := by decide
theorem test_route_unhandled : after .routeBmsPackStatus State.reset (·.out.rxKind) = some .unhandled ∧
    after .routeBmsCellTemps State.reset (·.out.rxKind) = some .unhandled ∧
    after .routeBmsErrors State.reset (·.out.rxKind) = some .unhandled := by decide
theorem test_route_other : after (.routeUnknown 2047) State.reset (·.out.rxKind) = some .unknown ∧
    after .routeNone (routeTo .unknown State.reset) (·.out.rxKind) = some .none := by decide
/-- 2.6, last row: a fault and a reserved code in one phase. -/
theorem test_rxPhase_fault : after .rxPhase (at' 0 .standby .top false { Input.idle with
      rx := some (frame 1 #v[0xC0, 0, 0, 0, 0, 0, 0, 0] 8), rxFault := 5 })
    (fun t => (t.out.hbState, t.out.hbSoc, t.out.hbStateReserved, t.out.diag, t.canResetReq)) =
    some (6, 0, true, [.transportFault .rx 5, .unexpectedEnum .bmsHeartbeat .state 6], true) := by decide
/-- 2.3, short frames: `7F FF`, len 2, is NOT_READY; stale outputs are cleared. -/
theorem test_rxPhase_short : after .rxPhase (at' 0 .standby .top false { Input.idle with
      rx := some (frame 2 #v[0x7F, 0xFF, 0xFF, 0xFF, 0xFF, 0xFF, 0xFF, 0xFF] 2) })
    (fun t => (t.out.rxKind, t.out.drResponse, t.out.diag)) = some (.bmsDischargeResponse, 0, []) := by decide

/-! ### Encode operations (2.4, 2.5) -/

theorem test_insert : after (.insert 0x2008000000000000 60 51 0x3FF) State.reset (·.latch.word) =
    some 0x3FF8000000000000 := by decide
/-- R110: of a value wider than its field only the low bits are used: 13 = 0b1101 in 3 bits is 0b101; by its call code. -/
theorem test_insert_wide : (nextOf (step { State.reset with stim := [.call
      [0x0D, 4, 0, 0, 0, 0, 0, 0, 0, 0, 63, 61, 0, 0, 0, 0, 0, 0, 0, 13] Input.idle] })).map (·.latch.word) =
    some 0xA000000000000000 := by decide
theorem test_insert_clears : after (.insert 0xFFFFFFFFFFFFFFFF 63 61 2) State.reset (·.latch.word) =
    some 0x5FFFFFFFFFFFFFFF := by decide
theorem test_storew : after (.storew 0x0123456789ABCDEF 3) State.reset (fun t => (t.txBuf.mem.toBytes, t.txBuf.len)) =
    some (#v[0x01, 0x23, 0x45, 0, 0, 0, 0, 0], 3) := by decide
/-- Zero-filling over a buffer that held something. -/
theorem test_storew_clears : after (.storew 0x0123456789ABCDEF 0)
    { State.reset with txBuf := storeWord Buffer.empty 0xFFFFFFFFFFFFFFFF 8 } (fun t => t.txBuf) =
    some { mem := [], len := 0 } := by decide
theorem test_encBmshb : after (.encBmshb 2 101) State.reset (·.latch.word) = some 0x4328000000000000 ∧
    after (.encBmshb 7 1023) State.reset (·.latch.word) = some 0xFFF8000000000000 := by decide
theorem test_encBmsdr : after (.encBmsdr 1) State.reset (·.latch.word) = some 0x8000000000000000 := by decide
theorem test_encHbcmd : after .encHbcmdStandby State.reset (·.latch.byte) = some 0x00 ∧
    after .encHbcmdDischarge State.reset (·.latch.byte) = some 0x80 := by decide
theorem test_encDreq : after .encDreq State.reset (·.latch.byte) = some 0x80 := by decide

/-! ### Commands (2.5, 2.9) -/

theorem test_cmdTopV : after .cmdTopV (at' 0 .none .top false Input.idle) regs = some (0, .none, .hbConfig, false) := by
  decide
theorem test_cmdTopKeyDreq : after .cmdTopKeyDreq (at' 0 .none .top false { Input.idle with txFaultDreq := 7 })
    (fun t => (regs t, t.out.tx, t.out.diag)) =
    some ((0, .none, .top, true), [frame 7 #v[0x80, 0, 0, 0, 0, 0, 0, 0] 1], [.transportFault .tx 7]) := by decide
theorem test_cmdTopOther : after (.cmdTopOther 0x73) (at' 0 .standby .top false Input.idle)
    (fun t => (regs t, t.out.diag)) = some ((0, .standby, .top, false), [.unrecognizedCmd .top 0x73]) := by decide
theorem test_cmdTopNone : after .cmdTopNone (at' 0 .none .top false Input.idle) id =
    some (at' 0 .none .top false Input.idle) := by decide
theorem test_cmdHbcfgS : after .cmdHbcfgS (at' 0 .none .hbConfig false Input.idle) regs =
    some (0, .standby, .top, false) := by decide
theorem test_cmdHbcfgD : after .cmdHbcfgD (at' 0 .none .hbConfig false Input.idle) regs =
    some (0, .discharge, .top, false) := by decide
theorem test_cmdHbcfgN : after .cmdHbcfgN (at' 0 .standby .hbConfig false Input.idle) regs =
    some (0, .none, .top, false) := by decide
theorem test_cmdHbcfgOther : after (.cmdHbcfgOther 0x76) (at' 0 .standby .hbConfig false Input.idle)
    (fun t => (regs t, t.out.diag)) = some ((0, .standby, .top, false), [.unrecognizedCmd .hbConfig 0x76]) := by decide
theorem test_cmdHbcfgNone : after .cmdHbcfgNone (at' 0 .none .hbConfig false Input.idle) id =
    some (at' 0 .none .hbConfig false Input.idle) := by decide
theorem test_cmdPhase3 : after .cmdPhase3 (at' 0 .standby .top false { Input.idle with key := some 0x00 })
    (fun t => (regs t, t.out.diag)) = some ((0, .standby, .top, false), [.unrecognizedCmd .top 0x00]) := by decide
theorem test_cmdPhase3_v : after .cmdPhase3 (at' 0 .standby .top false { Input.idle with key := some 0x76 }) regs =
    some (0, .standby, .hbConfig, false) := by decide
/-- 2.9: an upper-case letter is another key. -/
theorem test_cmdHbcfg_upper : after (.cmdHbcfg 0x53) (at' 0 .none .hbConfig false Input.idle)
    (fun t => (regs t, t.out.diag)) = some ((0, .none, .top, false), [.unrecognizedCmd .hbConfig 0x53]) := by decide
theorem test_cmdHbcfg_d : after (.cmdHbcfg 0x64) (at' 0 .none .hbConfig false Input.idle) regs =
    some (0, .discharge, .top, false) := by decide
theorem test_render : after .render (at' 0 .standby .top false Input.idle) (·.latch.rendered) = some (some 0x00) ∧
    after .render (at' 0 .discharge .top false Input.idle) (·.latch.rendered) = some (some 0x80) := by decide
theorem test_render_none : after .render (at' 0 .none .top false Input.idle) (·.latch.rendered) = some none := by decide

/-! ### Scheduler (2.7, 2.8) -/

theorem test_schedCheck_wrap : after .schedCheck (at' 0xFFFFFF00 .standby .top false { Input.idle with now := 0x2E9 })
    (·.latch.elapsed) = some 1001 := by decide
theorem test_schedCheck_behind : after .schedCheck (at' 0x3E8 .standby .top false { Input.idle with now := 0x3E7 })
    (·.latch.elapsed) = some 0xFFFFFFFF := by decide
theorem test_fire_1000 : after .schedCheckFire { State.reset with latch := { Latches.clear with elapsed := 1000 } }
    (·.out.hbFire) = some false := by decide
theorem test_fire_1001 : after .schedCheckFire { State.reset with latch := { Latches.clear with elapsed := 1001 } }
    (·.out.hbFire) = some true := by decide
/-- A state in which the scheduler has fired. -/
def fired (mode : VcuState) (inp : Input) : State :=
  { at' 0 mode .top false inp with out := { Output.clear with hbFire := true } }
theorem test_txHb_discharge : after .txHb (fired .discharge { Input.idle with now := 1001 })
    (fun t => (regs t, t.out.tx)) =
    some ((1001, .discharge, .top, false), [frame 6 #v[0x80, 0, 0, 0, 0, 0, 0, 0] 1]) := by decide
theorem test_txHb_fault : after .txHb (fired .standby { Input.idle with now := 1001, txFaultHb := 9 })
    (fun t => (regs t, t.out.tx.length, t.out.diag)) =
    some ((1001, .standby, .top, true), 1, [.transportFault .tx 9]) := by decide
theorem test_txHbNone : after .txHbNone (fired .none { Input.idle with now := 1001 }) (fun t => (regs t, t.out.tx)) =
    some ((0, .none, .top, false), []) := by decide

/-! ### Steps (2.8 to 2.10, part 3) -/

/-- P3, step 7. -/
theorem test_pass_both_frames : after .pass (at' 0 .discharge .top false { Input.idle with
      rx := some (frame 2047 #v[0xFF, 0, 0, 0, 0, 0, 0, 0] 1), key := some 0x72, now := 1001, txFaultDreq := 7, txFaultHb := 9 })
    (fun t => (regs t, t.out.rxKind, t.out.tx, t.out.diag)) =
    some ((1001, .discharge, .top, true), .unknown,
      [frame 7 #v[0x80, 0, 0, 0, 0, 0, 0, 0] 1, frame 6 #v[0x80, 0, 0, 0, 0, 0, 0, 0] 1],
      [.transportFault .tx 7, .transportFault .tx 9]) := by decide
/-- 2.9, last row, with 2.10, row 3: phase 4 deferred, and the acknowledge before the fault. -/
theorem test_pass_v : after .pass (at' 0 .standby .top true { Input.idle with
      canResetAck := true, rxFault := 3, key := some 0x76, now := 5000 })
    (fun t => (regs t, t.out.tx, t.out.hbFire, t.out.canResetReq)) =
    some ((0, .standby, .hbConfig, true), [], false, true) := by decide
/-- The example of R158. -/
theorem test_resume_d : after .passResume (at' 1001 .standby .hbConfig false { Input.idle with key := some 0x64, now := 5000 })
    (fun t => (regs t, t.out.tx)) =
    some ((5000, .discharge, .top, false), [frame 6 #v[0x80, 0, 0, 0, 0, 0, 0, 0] 1]) := by decide
/-- 2.10, row 5: the acknowledge is not sampled, and nothing else happens. -/
theorem test_resume_waits : after .passResume (at' 0 .standby .hbConfig true { Input.idle with
      canResetAck := true, now := 5000 }) (fun t => (regs t, t.out.tx, t.out.diag)) =
    some ((0, .standby, .hbConfig, true), [], []) := by decide
/-- 2.10, row 6. -/
theorem test_reset : after .reset (at' 123456 .none .hbConfig true Input.idle) regs = some (0, .standby, .top, false) := by
  decide

/-! ### The step, from reset -/

theorem test_step_placed_key : (nextOf (step (State.reset.withFetchWord 8 0x76))).map regs =
    some (0, .standby, .hbConfig, false) := by decide
theorem test_step_placed_word : (nextOf (step (State.reset.withFetchWord 64 0xB008000000000000))).map
    (fun t => (t.out.hbState, t.out.hbSoc)) = some (5, 513) := by decide
/-- A code whose operands are zeros past the bits given: INSERT, format byte 0x0D, number 4. -/
theorem test_step_placed_short : (nextOf (step (State.reset.withFetchWord 24 0x040D))).map (fun t => t.stim) =
    some [] := by decide
theorem test_step_loop : (nextOf (step (withIterations State.reset [{ Input.idle with now := 1001 }]))).map regs =
    some (1001, .standby, .top, false) := by decide

/-! ### Witnesses: for each statement with hypotheses, a state and operands that meet them -/

/-- The input check decides the types of R29. -/
theorem typed_of {cfg : Config} {inp : Input} (h : inputRefusal cfg inp = none) : InputTyped cfg inp :=
  (inputRefusal_eq_none cfg inp).1 h

/-- An input at the edges of the types: length 8, the last identifier, the last fault code. -/
def edge : Input := { Input.idle with
  rx := some (frame 2047 #v[1, 2, 3, 4, 5, 6, 7, 8] 8), rxFault := 0xFFFFFFFF, now := 1001, txFaultHb := 0xFFFFFFFF }

/-- A tick, a key. -/
def tick (now : Tick) (key : Option Byte) : Input := { Input.idle with now := now, key := key }

theorem test_witness_DecodeOfEncodeIsTheOperation : Config.default.ok = true ∧
    Instr.wf Config.default (.insert 0 63 0 0xFFFFFFFFFFFFFFFF) = true ∧ Instr.wf Config.default (.loadw 8) = true ∧
    Instr.wf Config.default (.routeUnknown 2047) = true ∧ Instr.wf Config.default (.cmdTopOther 0xFF) = true := by decide
theorem test_witness_DecodedIsWellFormedAndCanonical :
    decode Config.default [0x0D, 0, 8, 0xFF] = .ok (.loadw 8, [0xFF]) := by rfl
theorem test_witness_StepRunsTheDecodedCall : State.reset.cfg.ok = true ∧
    ({ State.reset with stim := [.call [0x0D, 13] edge] } : State).stim = .call [0x0D, 13] edge :: [] ∧
    decode State.reset.cfg [0x0D, 13] = .ok (.pass, []) := ⟨by decide, rfl, rfl⟩
theorem test_witness_StepRunsThePlacedTableWord : State.reset.cfg.ok = true ∧
    decode State.reset.cfg (tableCode State.reset.cfg 8 0x76) = .ok (.cmdTopV, []) := ⟨by decide, rfl⟩
/-- An iteration at TOP, one at HB_CONFIG, a reset, and a free event. -/
theorem test_witness_StepRunsWhatCmdPhaseSelects : State.reset.cfg.ok = true ∧
    nextEvent (withIterations (at' 0 .none .top false Input.idle) [edge]) = some (.iterate edge) ∧
    nextEvent (withIterations (at' 0 .none .hbConfig false Input.idle) [edge]) = some (.iterate edge) ∧
    nextEvent { State.reset with stim := [.loop .reset] } = some .reset ∧
    nextEvent State.reset = some (Config.freeEvent 0) := ⟨by decide, rfl, rfl, rfl, rfl⟩
theorem test_witness_EnabledStepsComplete :
    ((at' 0 .none .top false edge).cmdPhase = .top ∧ InputTyped Config.default edge) ∧
    ((at' 0 .none .hbConfig false edge).cmdPhase = .hbConfig ∧ InputTyped Config.default edge) :=
  ⟨⟨rfl, typed_of (by decide)⟩, ⟨rfl, typed_of (by decide)⟩⟩
theorem test_witness_IllTypedInputsAreRefused :
    (¬ ConfigConstraints { Config.default with keyDreq := 0x76 }) ∧
    (¬ InputTyped Config.default { Input.idle with txFaultHb := 0x100000000 }) ∧
    (8 < (frame 1 #v[0, 0, 0, 0, 0, 0, 0, 0] 9).len ∧ (at' 0 .none .top false Input.idle).cmdPhase = .top ∧
      (at' 0 .none .hbConfig false Input.idle).cmdPhase = .hbConfig) ∧
    ((frame 2048 #v[0, 0, 0, 0, 0, 0, 0, 0] 8).len ≤ 8 ∧
      2 ^ Config.default.idWidth ≤ (frame 2048 #v[0, 0, 0, 0, 0, 0, 0, 0] 8).id) :=
  ⟨fun h => h.2.2.2.2.2.2.2 rfl, fun h => absurd h.2.2.2 (by decide), by decide, by decide⟩
theorem test_witness_OperandsOutsideTheirTypesAreRefused :
    (8 < 9) ∧ (63 < 64 ∨ 64 < 0) ∧ (63 < 3 ∨ 3 < 4) := by decide
/-- Lengths 0 and 8. -/
theorem test_witness_lengths : (0 ≤ 8) ∧ (8 ≤ 8) := by decide
/-- The whole word, the lowest bit, the highest bit. -/
theorem test_witness_descriptors : (63 ≤ 63 ∧ 0 ≤ 63) ∧ (0 ≤ 63 ∧ 0 ≤ 0) ∧ (63 ≤ 63 ∧ 63 ≤ 63) := by decide
/-- A value that fills its field, and two fields that touch and do not overlap. -/
theorem test_witness_ExtractOfInsert : (7#64).toNat < 2 ^ (63 - 61 + 1) ∧ (60 < 61 ∨ 63 < 51) := by decide
/-- Two words that agree on the fields and differ on every other bit. -/
theorem test_witness_DecodingIgnoresOtherBits :
    (∀ b, b < 64 → (61 ≤ b ∧ b ≤ 63) ∨ (51 ≤ b ∧ b ≤ 60) →
      (0x2008000000000000#64).getLsbD b = (0x200FFFFFFFFFFFFF#64).getLsbD b) ∧
    (0x8000000000000000#64).getLsbD 63 = (0xFFFFFFFFFFFFFFFF#64).getLsbD 63 := by decide
/-- RX_PHASE: one frame of each kind, and none. -/
theorem test_witness_RxPhaseReceivesRoutesDecodes :
    Config.default.ok = true ∧ InputTyped Config.default edge ∧
    kindOf Config.default (some (frame 1 #v[0, 0, 0, 0, 0, 0, 0, 0] 8)) = .bmsHeartbeat ∧
    kindOf Config.default (some (frame 2 #v[0, 0, 0, 0, 0, 0, 0, 0] 0)) = .bmsDischargeResponse ∧
    kindOf Config.default edge.rx = .unknown ∧ kindOf Config.default none = .none :=
  ⟨by decide, typed_of (by decide), by decide, by decide, by decide, by decide⟩
/-- No character, `'v'`, the discharge-request key, another key. -/
theorem test_witness_CharactersSelectTheirRows :
    (tick 0 none).key = none ∧ (tick 0 (some 0x76)).key = some 0x76 ∧
    (tick 0 (some 0x72)).key = some Config.default.keyDreq ∧ (0x72 : Byte) ≠ 0x76 ∧
    (0x73 : Byte) ≠ 0x76 ∧ (0x73 : Byte) ≠ Config.default.keyDreq := by decide
/-- A distance of 1001 across the wrap. -/
theorem test_witness_ElapsedIsExactBelowOneWrap : 1001 < 2 ^ 32 ∧
    (0x2E9#32) = 0xFFFFFF00#32 + BitVec.ofNat 32 1001 := by decide
/-- TX_HB: fired in STANDBY, in DISCHARGE, in NONE, and not fired. -/
theorem test_witness_TxHb : (fired .standby edge).out.hbFire = true ∧ (fired .standby edge).vcuState ≠ .none ∧
    (fired .discharge edge).vcuState ≠ .none ∧ (fired .none edge).vcuState = .none ∧
    Config.default.updateTickInNone = false ∧ Config.default.updateTickOnFault = true ∧
    State.reset.out.hbFire = false := by decide
/-- PASS: firing at distance 1001, not firing at 1000, `'v'`, NONE. -/
theorem test_witness_Pass : Config.default.ok = true ∧ (at' 0 .discharge .top false edge).cmdPhase = .top ∧
    InputTyped Config.default edge ∧ edge.key ≠ some 0x76 ∧ Fires edge.now 0 ∧ ¬ Fires 1000 0 ∧
    Config.default.updateTickInNone = false ∧ Config.default.updateTickOnFault = true :=
  ⟨by decide, by decide, typed_of (by decide), by decide, by unfold Fires; decide, by unfold Fires; decide,
    by decide, by decide⟩
/-- The decoded outputs of a PASS: a heartbeat, a discharge response, a frame of another kind, none. -/
theorem test_witness_PassOutputsInPhaseOrder :
    InputTyped Config.default { Input.idle with rx := some (frame 1 #v[0xC0, 0, 0, 0, 0, 0, 0, 0] 8) } ∧
    kindOf Config.default (some (frame 1 #v[0xC0, 0, 0, 0, 0, 0, 0, 0] 8)) = .bmsHeartbeat ∧
    InputTyped Config.default { Input.idle with rx := some (frame 2 #v[0x80, 0, 0, 0, 0, 0, 0, 0] 1) } ∧
    kindOf Config.default (some (frame 2 #v[0x80, 0, 0, 0, 0, 0, 0, 0] 1)) = .bmsDischargeResponse ∧
    kindOf Config.default edge.rx = .unknown ∧ kindOf Config.default Input.idle.rx = .none :=
  ⟨typed_of (by decide), by decide, typed_of (by decide), by decide, by decide, by decide⟩
/-- PASS_RESUME: no character, each of the three keys, another key. -/
theorem test_witness_Resume : (at' 0 .none .hbConfig false edge).cmdPhase = .hbConfig ∧
    InputTyped Config.default (tick 5000 (some 0x64)) ∧ InputTyped Config.default edge ∧ edge.key = none ∧
    (tick 5000 (some 0x64)).key = some 0x64 ∧ modeOfKey 0x73 = some .standby ∧ modeOfKey 0x64 = some .discharge ∧
    modeOfKey 0x6E = some .none ∧ modeOfKey 0x76 = none :=
  ⟨rfl, typed_of (by decide), typed_of (by decide), rfl, rfl, by decide, by decide, by decide, by decide⟩
/-- Steps that answer a next state: the premise of the statements over every step. -/
theorem test_witness_everyStep :
    (nextOf (step (withIterations State.reset [edge]))).isSome = true ∧
    (nextOf (step { State.reset with stim := [.loop .reset] })).isSome = true ∧
    (nextOf (step { State.reset with stim := [.call [0x0D, 15] edge] })).isSome = true := by decide
/-- The invariant at reset, and in a state no reset gives: a frame and an event in the outputs. -/
theorem test_witness_StepKeepsTheInvariant : Inv State.reset ∧
    Inv { State.reset with out := { Output.clear with
      tx := [tagFrame 7 1], diag := [.transportFault .tx 7, .unexpectedEnum .bmsHeartbeat .state 6] } } := by
  refine ⟨⟨rfl, Nat.zero_le 8, rfl, Nat.zero_le 8, nofun, nofun⟩, ⟨rfl, Nat.zero_le 8, rfl, Nat.zero_le 8, ?_, ?_⟩⟩
  · rintro f (_ | ⟨_, hf⟩)
    · exact ⟨rfl, .inr rfl, 1, rfl⟩
    · cases hf
  · rintro d (_ | ⟨_, _ | ⟨_, hd⟩⟩)
    · exact (by decide : (7 : Nat) ≠ 0)
    · exact (stateReserved_eq_true _ _).1 (by decide)
    · cases hd
/-- Two states that differ in every field that lives inside a step. -/
theorem test_witness_NothingElseIsRetained :
    SameRetained (withIterations State.reset [edge]) (withIterations { State.reset with
      inp := edge, rxBuf := Buffer.empty.receive (frame 1 #v[1, 2, 3, 4, 5, 6, 7, 8] 8)
      txBuf := storeWord Buffer.empty 1 8, latch := { Latches.clear with word := 1 }
      out := { Output.clear with hbFire := true } } [edge]) ∧
    nextEvent (withIterations State.reset [edge]) = some (.iterate edge) :=
  ⟨⟨rfl, rfl, rfl, rfl, rfl, rfl, rfl⟩, rfl⟩
/-- Two inputs with one key that differ in what a PASS_RESUME does not sample, and in what a PASS without its
key and without a heartbeat does not. -/
theorem test_witness_UnsampledInputsHaveNoEffect :
    InputTyped Config.default (tick 0 none) ∧ InputTyped Config.default edge ∧ (tick 0 none).key = edge.key ∧
    InputTyped Config.default { tick 1000 none with txFaultDreq := 7, txFaultHb := 9 } ∧
    ¬ Fires (tick 1000 none).now 0 ∧ (tick 0 (some 0x76)).key = some 0x76 :=
  ⟨typed_of (by decide), typed_of (by decide), rfl, typed_of (by decide), by unfold Fires; decide, rfl⟩
/-- `VCU_STATE` changes by a second key and by RESET. -/
theorem test_witness_OnlyTheSecondKeyChangesTheMode :
    (nextOf (step (withIterations (at' 0 .none .hbConfig false Input.idle) [tick 0 (some 0x73)]))).map (·.vcuState) =
      some .standby ∧
    (nextOf (step { at' 0 .none .top false Input.idle with stim := [.loop .reset] })).map (·.vcuState) =
      some .standby := by decide
/-- `CAN_RESET_REQ` is set by each kind of fault (receive, discharge request, heartbeat of a PASS, heartbeat of a
PASS_RESUME) and cleared by an acknowledge. -/
theorem test_witness_OnlyFaultsRaiseTheResetRequest :
    (nextOf (step (withIterations State.reset [{ Input.idle with rxFault := 1 }]))).map (·.canResetReq) = some true ∧
    (nextOf (step (withIterations State.reset [{ tick 0 (some 0x72) with txFaultDreq := 1 }]))).map
      (·.canResetReq) = some true ∧
    (nextOf (step (withIterations State.reset [{ tick 1001 none with txFaultHb := 1 }]))).map
      (·.canResetReq) = some true ∧
    (nextOf (step (withIterations (at' 0 .none .hbConfig false Input.idle)
      [{ tick 1001 (some 0x64) with txFaultHb := 1 }]))).map (·.canResetReq) = some true ∧
    (nextOf (step (withIterations (at' 0 .none .top true Input.idle)
      [{ Input.idle with canResetAck := true }]))).map (·.canResetReq) = some false := by decide
/-- The wait: one step, with a frame, a fault and a tick past the threshold offered. -/
theorem test_witness_WaitIsLeftOnlyByACharacter : (at' 0 .none .hbConfig false Input.idle).cfg.ok = true ∧
    (at' 0 .none .hbConfig false Input.idle).cmdPhase = .hbConfig ∧ [edge] ≠ [] ∧
    ∀ inp ∈ [edge], InputTyped Config.default inp ∧ inp.key = none :=
  ⟨by decide, rfl, by decide, by
    intro inp h
    obtain rfl := List.mem_singleton.1 h
    exact ⟨typed_of (by decide), rfl⟩⟩
/-- Suppression: `'s'` at TOP, `'v'`, a wait, `'n'`, then `KEY_DREQ`, past the threshold. -/
theorem test_witness_NoneSuppressesEveryHeartbeat : (at' 0 .none .top false Input.idle).cfg.ok = true ∧
    (at' 0 .none .top false Input.idle).cfg.updateTickInNone = false ∧
    (at' 0 .none .top false Input.idle).vcuState = .none ∧
    (∀ inp ∈ [tick 1001 (some 0x73), tick 1001 (some 0x76), edge, tick 5000 (some 0x6E), tick 5000 (some 0x72)],
      InputTyped Config.default inp) ∧
    LeavesNone .top [tick 1001 (some 0x73), tick 1001 (some 0x76), edge, tick 5000 (some 0x6E),
      tick 5000 (some 0x72)] ∧
    phaseAfter .top [tick 1001 (some 0x73), tick 1001 (some 0x76), edge, tick 5000 (some 0x6E)] = .top := by
  refine ⟨by decide, rfl, rfl, ?_, ?_, rfl⟩
  · intro inp h
    simp only [List.mem_cons, List.not_mem_nil, or_false] at h
    rcases h with rfl | rfl | rfl | rfl | rfl <;> exact typed_of (by decide)
  · have h1 : ∀ c, edge.key = some c → (modeOfKey c).getD .none = .none := by intro c h; cases h
    have h2 : ∀ c, (tick 5000 (some 0x6E)).key = some c → (modeOfKey c).getD .none = .none := by
      intro c h; cases h; rfl
    exact ⟨fun h => (by cases h), fun h => (by cases h), fun _ => h1, fun _ => h2, fun h => (by cases h), trivial⟩
/-- The scheduler: a quiet pass at distance 1000, the firing pass at 1001. -/
theorem test_witness_SchedulerFiresOnceAtTheFirstTickPast1000 :
    State.reset.cfg.ok = true ∧ State.reset.cfg.updateTickOnFault = true ∧ State.reset.cmdPhase = .top ∧
    State.reset.vcuState ≠ .none ∧
    (∀ inp ∈ [tick 1000 none], InputTyped Config.default inp ∧ inp.key = none ∧ ¬ Fires inp.now 0) ∧
    InputTyped Config.default (tick 1001 none) ∧ (tick 1001 none).key = none ∧ Fires (tick 1001 none).now 0 :=
  ⟨by decide, rfl, rfl, by decide, by
    intro inp h
    obtain rfl := List.mem_singleton.1 h
    exact ⟨typed_of (by decide), rfl, by unfold Fires; decide⟩,
   typed_of (by decide), rfl, by unfold Fires; decide⟩
/-- The split pass: `'v'`, one step waiting, `'d'`. -/
theorem test_witness_SplitPassIsOneIteration : State.reset.cfg.ok = true ∧
    State.reset.cfg.updateTickInNone = false ∧ State.reset.cfg.updateTickOnFault = true ∧
    State.reset.cmdPhase = .top ∧ InputTyped Config.default (tick 0 (some 0x76)) ∧
    (tick 0 (some 0x76)).key = some 0x76 ∧
    (∀ inp ∈ [edge], InputTyped Config.default inp ∧ inp.key = none) ∧
    InputTyped Config.default (tick 5000 (some 0x64)) ∧ (tick 5000 (some 0x64)).key = some 0x64 :=
  ⟨by decide, rfl, rfl, rfl, typed_of (by decide), rfl, by
    intro inp h
    obtain rfl := List.mem_singleton.1 h
    exact ⟨typed_of (by decide), rfl⟩, typed_of (by decide), rfl⟩
/-- The first pass, at tick 1000 and at tick 1001. -/
theorem test_witness_FirstHeartbeatAfterReset : Config.default.ok = true ∧ Config.default.resetLastFireTick = 0 ∧
    Config.default.resetVcuState ≠ .none ∧ InputTyped Config.default (tick 1000 none) ∧
    InputTyped Config.default (tick 1001 none) ∧ (tick 1001 none).key ≠ some 0x76 ∧
    (tick 1001 none).key ≠ some Config.default.keyDreq :=
  ⟨by decide, rfl, by decide, typed_of (by decide), typed_of (by decide), by decide, by decide⟩

/-- A call of each kind outside the operations: a length 9, an identifier 2048, a pair 3, 4, an unknown operation
number, and a byte left over. -/
theorem test_witness_CallsOutsideTheOperationsRunNothing :
    decode Config.default [0x0D, 0, 9] = .error .lengthRange ∧
    decode Config.default [0x07, 8, 0] = .error (.identifierRange 2048) ∧
    decode Config.default [0x0D, 1, 0, 0, 0, 0, 0, 0, 0, 0, 3, 4, 0] = .error .descriptorRange ∧
    decode Config.default [0x0D, 16] = .error (.unknownOperation 16) ∧
    decode Config.default [0x08, 0xFF] = .ok (.routeNone, [0xFF]) :=
  ⟨rfl, by decide +kernel, rfl, rfl, rfl⟩

end Sys2Proof.Tests
end

section
/-! PROOFS. The configuration check, one equivalence for each of its five parts, and the check as a whole
against the constraints of R8. -/

namespace Sys2Proof

/-- A descriptor is in range as inequalities (R60). -/
theorem descriptorOk_iff (start stop : Nat) : descriptorOk start stop = true ↔ start ≤ 63 ∧ stop ≤ start := by
  rw [descriptorOk, Bool.and_eq_true, decide_eq_true_eq, decide_eq_true_eq]

/-- Two field ranges share no bit exactly if one ends below the other. The witness of an overlap is the higher of
the two low bits. -/
theorem fieldRanges_disjoint_iff {start stop start' stop' : Nat} (h : stop ≤ start) (h' : stop' ≤ start') :
    (∀ b, stop ≤ b → b ≤ start → ¬ (stop' ≤ b ∧ b ≤ start')) ↔ start < stop' ∨ start' < stop := by
  constructor
  · intro hdisj
    have hmax := hdisj (max stop stop')
    omega
  · intro hsep b
    omega

/-- The layout check: positions in range, widths 3, 10 and 1, and no bit in both heartbeat fields (R8). -/
theorem Config.layoutOk_iff (cfg : Config) :
    cfg.layoutOk = true ↔
      (cfg.hbStateStart ≤ 63 ∧ cfg.hbSocStart ≤ 63 ∧ cfg.drStart ≤ 63) ∧
      (cfg.hbStateStart = cfg.hbStateEnd + 2 ∧ cfg.hbSocStart = cfg.hbSocEnd + 9 ∧ cfg.drStart = cfg.drEnd) ∧
      ∀ b, cfg.hbStateEnd ≤ b → b ≤ cfg.hbStateStart → ¬ (cfg.hbSocEnd ≤ b ∧ b ≤ cfg.hbSocStart) := by
  simp only [Config.layoutOk, Bool.and_eq_true, Bool.or_eq_true, decide_eq_true_eq, beq_iff_eq, descriptorOk_iff,
    fieldWidth]
  constructor
  · intro hcheck
    have hdisj := (fieldRanges_disjoint_iff (start := cfg.hbStateStart) (stop := cfg.hbStateEnd)
      (start' := cfg.hbSocStart) (stop' := cfg.hbSocEnd) (by omega) (by omega)).2 (by omega)
    exact ⟨by omega, by omega, hdisj⟩
  · rintro ⟨hrange, hwidth, hdisj⟩
    have hsep := (fieldRanges_disjoint_iff (by omega) (by omega)).1 hdisj
    omega

/-- The six names, in the order of `stateCodes` (R70). -/
def bmsStates : List BmsState := [.init, .standby, .charge, .balance, .discharge, .error]

theorem bmsStates_nodup : bmsStates.Nodup := by decide

theorem mem_bmsStates (n : BmsState) : n ∈ bmsStates := by cases n <;> decide

theorem stateCodes_eq_map (cfg : Config) : stateCodes cfg = bmsStates.map (stateCode cfg) := rfl

/-- The check on the state codes: no two names share a code (R8). -/
theorem Config.codesOk_iff (cfg : Config) :
    cfg.codesOk = true ↔ ∀ m n, stateCode cfg m = stateCode cfg n → m = n := by
  rw [Config.codesOk, decide_eq_true_eq, stateCodes_eq_map, List.nodup_map_iff_inj_on bmsStates_nodup]
  simp only [mem_bmsStates, true_imp_iff]

theorem Config.tagsOk_iff (cfg : Config) : cfg.tagsOk = true ↔ cfg.tagHbStandby ≠ cfg.tagHbDischarge :=
  bne_iff_ne

/-- The received identifiers are pairwise distinct, pair by pair (R8). -/
theorem receivedIds_nodup_iff (cfg : Config) :
    (receivedIds cfg).Nodup ↔
      cfg.idBmsHeartbeat ≠ cfg.idBmsDischargeResponse ∧ cfg.idBmsHeartbeat ≠ cfg.idBmsPackStatus ∧
      cfg.idBmsHeartbeat ≠ cfg.idBmsCellTemps ∧ cfg.idBmsHeartbeat ≠ cfg.idBmsErrors ∧
      cfg.idBmsDischargeResponse ≠ cfg.idBmsPackStatus ∧ cfg.idBmsDischargeResponse ≠ cfg.idBmsCellTemps ∧
      cfg.idBmsDischargeResponse ≠ cfg.idBmsErrors ∧ cfg.idBmsPackStatus ≠ cfg.idBmsCellTemps ∧
      cfg.idBmsPackStatus ≠ cfg.idBmsErrors ∧ cfg.idBmsCellTemps ≠ cfg.idBmsErrors := by
  simp [receivedIds, and_assoc]

/-- A bound on all seven identifiers, one by one. -/
theorem forall_allIds_lt_iff (cfg : Config) (bound : Nat) :
    (∀ id ∈ allIds cfg, id < bound) ↔
      cfg.idBmsHeartbeat < bound ∧ cfg.idBmsDischargeResponse < bound ∧ cfg.idBmsPackStatus < bound ∧
      cfg.idBmsCellTemps < bound ∧ cfg.idBmsErrors < bound ∧ cfg.idVcuHeartbeat < bound ∧
      cfg.idVcuDischargeRequest < bound := by
  simp [allIds, receivedIds]

theorem Config.idsOk_iff (cfg : Config) :
    cfg.idsOk = true ↔ (receivedIds cfg).Nodup ∧ ∀ id ∈ allIds cfg, id < 2 ^ cfg.idWidth := by
  simp only [Config.idsOk, Bool.and_eq_true, List.all_eq_true, decide_eq_true_eq]

theorem Config.keysOk_iff (cfg : Config) : cfg.keysOk = true ↔ cfg.keyDreq ≠ keyV :=
  bne_iff_ne

/-- The check passes exactly if each of its five parts does. -/
theorem Config.ok_iff (cfg : Config) :
    cfg.ok = true ↔
      cfg.layoutOk = true ∧ cfg.codesOk = true ∧ cfg.tagsOk = true ∧ cfg.idsOk = true ∧ cfg.keysOk = true := by
  simp only [Config.ok, Bool.and_eq_true, and_assoc]

end Sys2Proof

namespace Sys2Proof.Machine

/-- Settles O8: the check is taken apart into its five parts, and each part is rewritten to its constraint. -/
theorem configurationCheckIsTheConstraints : Obligations.ConfigurationCheckIsTheConstraints := by
  intro cfg
  rw [Config.ok_iff, Config.layoutOk_iff, Config.codesOk_iff, Config.tagsOk_iff, Config.idsOk_iff,
    Config.keysOk_iff, receivedIds_nodup_iff, forall_allIds_lt_iff]
  simp only [ConfigConstraints, keyV, and_assoc]

end Sys2Proof.Machine
end

section
/-! PROOFS. What a step of the block keeps of the state before it: the four registers, the configuration and
the line-up (R20, R26). -/

namespace Sys2Proof.Machine

/-- The state once the next event of the loop driver has been taken off the line-up, or drawn (R161, log
entry 4). -/
def takeEvent (s : State) : State :=
  { s with stim := s.stim.tail, draws := if s.stim = [] then s.draws + 1 else s.draws }

/-- A step refuses a configuration outside R8 (R196). -/
theorem step_of_not_ok {s : State} (hcfg : s.cfg.ok ≠ true) : step s = .refused .configuration := by
  simp only [step, fetch, if_neg hcfg]

/-- An event of the loop driver is accepted in the state that has taken it off the line-up. -/
theorem fetch_of_nextEvent {s : State} {e : LoopEvent} (hcfg : s.cfg.ok = true) (he : nextEvent s = some e) :
    fetch s = .ok (acceptEvent e (takeEvent s)) := by
  rw [fetch, if_pos hcfg]
  rcases hstim : s.stim with _ | ⟨e' | ⟨code, inp⟩, rest⟩
  · obtain rfl : Config.freeEvent s.draws = e := by simpa [nextEvent, hstim] using he
    simp [takeEvent, hstim]
  · obtain rfl : e' = e := by simpa [nextEvent, hstim] using he
    simp [takeEvent, hstim]
  · simp [nextEvent, hstim] at he

/-- The iteration of the loop driver runs the step `CMD_PHASE` selects (R161). -/
theorem step_of_iterate {s : State} {inp : Input} (hcfg : s.cfg.ok = true) (he : nextEvent s = some (.iterate inp)) :
    step s = exec (selectStep s.cmdPhase) ((takeEvent s).withInp inp) := by
  rw [step, fetch_of_nextEvent hcfg he]
  rfl

/-- The reset event runs RESET (R161). -/
theorem step_of_reset {s : State} (hcfg : s.cfg.ok = true) (he : nextEvent s = some .reset) :
    step s = exec .reset (takeEvent s) := by
  rw [step, fetch_of_nextEvent hcfg he]
  rfl

theorem SameRetained.cfg_eq {s t : State} (h : SameRetained s t) : s.cfg = t.cfg := by
  obtain ⟨-, -, -, -, hcfg, -, -⟩ := h
  exact hcfg

theorem SameRetained.cmdPhase_eq {s t : State} (h : SameRetained s t) : s.cmdPhase = t.cmdPhase := by
  obtain ⟨-, -, hphase, -, -, -, -⟩ := h
  exact hphase

theorem SameRetained.nextEvent_eq {s t : State} (h : SameRetained s t) : nextEvent s = nextEvent t := by
  obtain ⟨-, -, -, -, -, hstim, hdraws⟩ := h
  rw [nextEvent, nextEvent, hstim, hdraws]

theorem SameRetained.takeEvent {s t : State} (h : SameRetained s t) : SameRetained (takeEvent s) (takeEvent t) := by
  obtain ⟨hlast, hmode, hphase, hreq, hcfg, hstim, hdraws⟩ := h
  refine ⟨hlast, hmode, hphase, hreq, hcfg, ?_, ?_⟩ <;> simp only [Machine.takeEvent, hstim, hdraws]

theorem SameRetained.withInp {s t : State} (h : SameRetained s t) (inp : Input) :
    SameRetained (s.withInp inp) (t.withInp inp) := h

/-- The start of a step drops all but what is retained and the input record (R26). -/
theorem SameRetained.beginStep_eq {s t : State} (h : SameRetained s t) (hinp : s.inp = t.inp) :
    beginStep s = beginStep t := by
  obtain ⟨hlast, hmode, hphase, hreq, hcfg, hstim, hdraws⟩ := h
  simp only [beginStep, State.withOut, State.withLatch, State.withRxBuf, State.withTxBuf, hlast, hmode, hphase,
    hreq, hcfg, hstim, hdraws, hinp]

/-- RESET reads nothing but the configuration and the line-up (R210). -/
theorem SameRetained.resetStep_eq {s t : State} (h : SameRetained s t) : resetStep s = resetStep t := by
  obtain ⟨-, -, -, -, hcfg, hstim, hdraws⟩ := h
  rw [resetStep, resetStep, hcfg, hstim, hdraws]

/-- PASS works on the state `beginStep` leaves and reads nothing else. -/
theorem passStep_congr {s t : State} (h : beginStep s = beginStep t) : passStep s = passStep t := by
  rw [passStep, passStep, phases123, phases123, h]

/-- PASS_RESUME reads the character, and the rest from the state `beginStep` leaves. -/
theorem resumeStep_congr {s t : State} (hkey : s.inp.key = t.inp.key) (h : beginStep s = beginStep t) :
    resumeStep s = resumeStep t := by
  rw [resumeStep, resumeStep, hkey, h]

theorem withTypedInput_congr {s t : State} {f : State → State} (hcfg : s.cfg = t.cfg) (hinp : s.inp = t.inp)
    (hf : f s = f t) : withTypedInput s f = withTypedInput t f := by
  rw [withTypedInput, withTypedInput, hcfg, hinp, hf]

/-- The step `CMD_PHASE` selects, refusals included, is a function of what is retained and the input record. -/
theorem SameRetained.exec_selectStep_eq {s t : State} (h : SameRetained s t) (hinp : s.inp = t.inp) :
    exec (selectStep s.cmdPhase) s = exec (selectStep t.cmdPhase) t := by
  have hbegin := h.beginStep_eq hinp
  rw [h.cmdPhase_eq]
  cases ht : t.cmdPhase with
  | top =>
    change execPass s = execPass t
    rw [execPass, execPass, h.cmdPhase_eq, withTypedInput_congr h.cfg_eq hinp (passStep_congr hbegin)]
  | hbConfig =>
    change execPassResume s = execPassResume t
    rw [execPassResume, execPassResume, h.cmdPhase_eq,
      withTypedInput_congr h.cfg_eq hinp (resumeStep_congr (congrArg Input.key hinp) hbegin)]

/-- Settles O49: both states take the same event; RESET rebuilds the state from the configuration, and a pass
starts by dropping every field the two may differ in. -/
theorem nothingElseIsRetained : Obligations.NothingElseIsRetained := by
  intro s t e h he
  have hcfg : s.cfg = t.cfg := h.cfg_eq
  have he' : nextEvent t = some e := h.nextEvent_eq ▸ he
  by_cases hok : s.cfg.ok = true
  · have hok' : t.cfg.ok = true := hcfg ▸ hok
    cases e with
    | iterate inp =>
      rw [step_of_iterate hok he, step_of_iterate hok' he']
      exact (h.takeEvent.withInp inp).exec_selectStep_eq rfl
    | reset =>
      rw [step_of_reset hok he, step_of_reset hok' he']
      exact congrArg Host.Outcome.next h.takeEvent.resetStep_eq
  · rw [step_of_not_ok hok, step_of_not_ok (hcfg ▸ hok)]

end Sys2Proof.Machine
end

section
/-! PROOFS. What the first phases of a PASS leave unchanged (R157). -/

namespace Sys2Proof.Machine

/-- Phases 1 and 2 of a pass. -/
def phases12 (s : State) : State := rxPhase (acknowledge (beginStep s))

theorem phases123_eq (s : State) : phases123 s = cmdPhase3 (phases12 s) := rfl

/-- Phases 1 and 2 write no register but `CAN_RESET_REQ`, and leave the configuration and the inputs. -/
theorem phases12_frame {s : State} (ht : InputTyped s.cfg s.inp) :
    (phases12 s).lastFireTick = s.lastFireTick ∧ (phases12 s).vcuState = s.vcuState ∧
    (phases12 s).cmdPhase = s.cmdPhase ∧ (phases12 s).cfg = s.cfg ∧ (phases12 s).inp = s.inp := by
  rw [phases12, acknowledge_beginStep]
  obtain ⟨htick, hmode, hphase, hcfg, -, -, hinp, -⟩ := rxPhase_fields { s with
    canResetReq := s.canResetReq && !s.inp.canResetAck
    rxBuf := Buffer.empty, txBuf := Buffer.empty, latch := Latches.clear, out := Output.clear } ht
  exact ⟨htick, hmode, hphase, hcfg, hinp⟩

/-- Phases 1 to 3 leave the registers and inputs phase 4 reads. -/
theorem phases123_frame {s : State} (ht : InputTyped s.cfg s.inp) :
    (phases123 s).lastFireTick = s.lastFireTick ∧ (phases123 s).vcuState = s.vcuState ∧
    (phases123 s).cfg = s.cfg ∧ (phases123 s).inp = s.inp := by
  obtain ⟨htick, hmode, -, hcfg, hinp⟩ := phases12_frame ht
  obtain ⟨htick', hmode', hcfg', hinp', -⟩ := cmdPhase3_frame (phases12 s)
  exact ⟨htick'.trans htick, hmode'.trans hmode, hcfg'.trans hcfg, hinp'.trans hinp⟩

/-- The key `'v'` opens the sub-menu, so that phase 4 does not run (R131, R157). -/
theorem phases123_cmdPhase_of_v {s : State} (ht : InputTyped s.cfg s.inp) (hkey : s.inp.key = some keyV) :
    (phases123 s).cmdPhase = .hbConfig := by
  obtain ⟨-, -, -, -, hinp⟩ := phases12_frame ht
  have hkey' : (phases12 s).inp.key = some keyV := by rw [hinp, hkey]
  simp only [phases123_eq, cmdPhase3, hkey', cmdTop, if_pos, openSubmenu, State.withCmdPhase_cmdPhase]

/-- Phase 4 leaves `VCU_STATE` (R150 to R153, R157). -/
theorem phase4_vcuState (s : State) : (phase4 s).vcuState = s.vcuState := by
  rw [phase4]
  split
  · obtain ⟨hmode, -⟩ := schedule_fields s
    exact hmode
  · rfl

/-- A PASS leaves `VCU_STATE`: none of its four phases writes it (R141). -/
theorem passStep_vcuState {s : State} (ht : InputTyped s.cfg s.inp) : (passStep s).vcuState = s.vcuState := by
  obtain ⟨-, hmode, -⟩ := phases123_frame ht
  exact (phase4_vcuState _).trans hmode

end Sys2Proof.Machine
end

section
/-! PROOFS. Which operation writes which register (R32), and the reset values and port codes of the registers
(R22, R31). -/

namespace Sys2Proof.Machine

/-- An operation refused on some operands, where it answered a next state. -/
theorem next_of_ite_refused {c : Prop} [Decidable c] {u t : State} {r : Refusal}
    (h : (if c then .next u else .refused r : Result) = .next t) : u = t := by
  by_cases hc : c
  · rw [if_pos hc] at h
    exact Host.Outcome.next.inj h
  · rw [if_neg hc] at h
    cases h

/-- TX_HB leaves the two command registers (R152, R153). -/
theorem txHb_commandRegisters (s : State) : (txHb s).vcuState = s.vcuState ∧ (txHb s).cmdPhase = s.cmdPhase := by
  rw [txHb_eq]
  split_ifs <;> exact ⟨rfl, rfl⟩

/-- TX_HB NONE writes no register but `LAST_FIRE_TICK` (R153, D13). -/
theorem txHbNone_registers (s : State) : (txHbNone s).vcuState = s.vcuState ∧
    (txHbNone s).cmdPhase = s.cmdPhase ∧ (txHbNone s).canResetReq = s.canResetReq := by
  rw [txHbNone, skipHeartbeat, stampIf]
  split_ifs <;> exact ⟨rfl, rfl, rfl⟩

/-- RX_PHASE writes no register but `CAN_RESET_REQ` (R97). -/
theorem rxPhase_registers {s : State} (ht : InputTyped s.cfg s.inp) : (rxPhase s).lastFireTick = s.lastFireTick ∧
    (rxPhase s).vcuState = s.vcuState ∧ (rxPhase s).cmdPhase = s.cmdPhase := by
  obtain ⟨htick, hmode, hphase, -⟩ := rxPhase_fields s ht
  exact ⟨htick, hmode, hphase⟩

/-- Settles O51, row by row of the access table: in each anonymous constructor the four entries are the registers
in R32's order, a register the operation may write answered by `nofun`. -/
theorem operationsWriteOnlyTheirRegisters : Obligations.OperationsWriteOnlyTheirRegisters := by
  intro i s t h
  cases i with
  | decHb _ | decDr _ | encHbcmdStandby | encHbcmdDischarge | encDreq | encBmshb _ _ | encBmsdr _
  | routeBmsHeartbeat | routeBmsDischargeResponse | routeBmsPackStatus | routeBmsCellTemps | routeBmsErrors
  | routeUnknown _ | routeNone | cmdTopOther _ | cmdHbcfgNone | cmdTopNone | classifyState _ | render
  | schedCheck | schedCheckFire =>
    obtain rfl := Host.Outcome.next.inj h
    exact ⟨fun _ => rfl, fun _ => rfl, fun _ => rfl, fun _ => rfl⟩
  | loadw _ | extract _ _ _ _ | insert _ _ _ _ | storew _ _ =>
    obtain rfl := next_of_ite_refused h
    exact ⟨fun _ => rfl, fun _ => rfl, fun _ => rfl, fun _ => rfl⟩
  | cmdTopV | cmdHbcfgOther _ =>
    obtain rfl := Host.Outcome.next.inj h
    exact ⟨fun _ => rfl, fun _ => rfl, nofun, fun _ => rfl⟩
  | cmdHbcfgS | cmdHbcfgD | cmdHbcfgN =>
    obtain rfl := Host.Outcome.next.inj h
    exact ⟨fun _ => rfl, nofun, nofun, fun _ => rfl⟩
  | cmdHbcfg c =>
    obtain rfl : cmdHbcfg c s = t := Host.Outcome.next.inj h
    rw [cmdHbcfg_eq]
    exact ⟨fun _ => rfl, nofun, nofun, fun _ => rfl⟩
  | cmdTopKeyDreq =>
    obtain rfl : dischargeRequest s = t := Host.Outcome.next.inj h
    rw [dischargeRequest_eq]
    exact ⟨fun _ => rfl, fun _ => rfl, fun _ => rfl, nofun⟩
  | cmdPhase3 =>
    obtain rfl : cmdPhase3 s = t := Host.Outcome.next.inj h
    obtain ⟨htick, hmode, -⟩ := cmdPhase3_frame s
    exact ⟨fun _ => htick, fun _ => hmode, nofun, nofun⟩
  | rxPhase =>
    obtain ⟨htyped, rfl⟩ := withTypedInput_next h
    obtain ⟨htick, hmode, hphase⟩ := rxPhase_registers htyped
    exact ⟨fun _ => htick, fun _ => hmode, fun _ => hphase, nofun⟩
  | txHb =>
    obtain rfl : txHb s = t := Host.Outcome.next.inj h
    obtain ⟨hmode, hphase⟩ := txHb_commandRegisters s
    exact ⟨nofun, fun _ => hmode, fun _ => hphase, nofun⟩
  | txHbNone =>
    obtain rfl : txHbNone s = t := Host.Outcome.next.inj h
    obtain ⟨hmode, hphase, hreq⟩ := txHbNone_registers s
    exact ⟨nofun, fun _ => hmode, fun _ => hphase, fun _ => hreq⟩
  | pass =>
    obtain ⟨-, htyped, rfl⟩ := exec_pass_next h
    exact ⟨nofun, fun _ => passStep_vcuState htyped, nofun, nofun⟩
  | passResume | reset => exact ⟨nofun, nofun, nofun, nofun⟩

/-- Settles O45: `resetWith` copies R31's values, one field each. -/
theorem resetStateHasTheResetValues : Obligations.ResetStateHasTheResetValues :=
  fun _ => ⟨rfl, rfl, rfl, rfl, rfl, rfl⟩

/-- Reading a port code back gives the value it stands for (R22). -/
theorem vcuState_ofCode_code (v : VcuState) : VcuState.ofCode v.code = some v := by
  cases v <;> rfl

/-- Settles O59: the codes are read off their table, and 0b11 passes none of the three comparisons. -/
theorem vcuStatePortCodes : Obligations.VcuStatePortCodes :=
  ⟨vcuState_ofCode_code, rfl, rfl, rfl, rfl⟩

end Sys2Proof.Machine
end

section
/-! PROOFS. A step under another input record that agrees with its own on the fields it samples (R29): each phase
commutes with replacing the record, and so does the step. -/

namespace Sys2Proof.Machine

/-- Phase 1 samples the acknowledge (R157). -/
theorem acknowledge_withInp {s : State} {inp : Input} (hack : s.inp.canResetAck = inp.canResetAck) :
    acknowledge (s.withInp inp) = (acknowledge s).withInp inp := by
  rw [acknowledge, acknowledge, State.withInp_inp, ← hack]
  split <;> rfl

/-- The receive fault and the routing sample `rx_fault` and `rx` (R97). -/
theorem rxRouted_withInp {s : State} {inp : Input} (hrx : s.inp.rx = inp.rx) (hfault : s.inp.rxFault = inp.rxFault) :
    rxRouted (s.withInp inp) = (rxRouted s).withInp inp := by
  rw [rxRouted, rxRouted, State.withInp_inp, ← hrx, ← hfault]
  rfl

/-- The heartbeat arm takes its frame as given and samples no input. -/
theorem rxHeartbeat_withInp (f : Frame) (s : State) (inp : Input) :
    rxHeartbeat f (s.withInp inp) = (rxHeartbeat f s).withInp inp := by
  rw [rxHeartbeat, rxHeartbeat, apply_ite (State.withInp · inp)]
  rfl

/-- Phase 2 samples `rx` and `rx_fault` (R97). -/
theorem rxPhase_withInp {s : State} {inp : Input} (hrx : s.inp.rx = inp.rx) (hfault : s.inp.rxFault = inp.rxFault) :
    rxPhase (s.withInp inp) = (rxPhase s).withInp inp := by
  rw [rxPhase_eq, rxPhase_eq, rxRouted_withInp hrx hfault, State.withInp_inp, State.withInp_cfg, ← hrx]
  split
  · exact rxHeartbeat_withInp _ _ _
  · rfl
  · rfl

/-- A discharge request samples the transport's answer to it (R132). -/
theorem dischargeRequest_withInp {s : State} {inp : Input} (hdreq : s.inp.txFaultDreq = inp.txFaultDreq) :
    dischargeRequest (s.withInp inp) = (dischargeRequest s).withInp inp := by
  rw [dischargeRequest_eq, dischargeRequest_eq, State.withInp_inp, ← hdreq]
  rfl

/-- Phase 3 samples the character and, where it runs the KEY_DREQ row, the discharge-request result (R130). -/
theorem cmdPhase3_withInp {s : State} {inp : Input} (hkey : s.inp.key = inp.key)
    (hdreq : s.inp.key ≠ some keyV → s.inp.key = some s.cfg.keyDreq → s.inp.txFaultDreq = inp.txFaultDreq) :
    cmdPhase3 (s.withInp inp) = (cmdPhase3 s).withInp inp := by
  rw [cmdPhase3, cmdPhase3, State.withInp_inp, ← hkey]
  cases hc : s.inp.key with
  | none => rfl
  | some c =>
    dsimp only
    rw [cmdTop, cmdTop, State.withInp_cfg]
    by_cases hv : c = keyV
    · rw [if_pos hv, if_pos hv]
      rfl
    · rw [if_neg hv, if_neg hv]
      by_cases hd : c = s.cfg.keyDreq
      · rw [if_pos hd, if_pos hd]
        exact dischargeRequest_withInp (hdreq (by simp [hc, hv]) (by rw [hc, hd]))
      · rw [if_neg hd, if_neg hd]
        rfl

/-- TX_HB samples `now` and, where a heartbeat goes out, the transport's answer to it (R152). -/
theorem txHb_withInp {s : State} {inp : Input} (hnow : s.inp.now = inp.now)
    (hfault : s.out.hbFire = true → s.vcuState ≠ .none → s.inp.txFaultHb = inp.txFaultHb) :
    txHb (s.withInp inp) = (txHb s).withInp inp := by
  rw [txHb_eq, txHb_eq]
  simp only [State.withInp_out, State.withInp_vcuState, State.withInp_inp, ← hnow]
  by_cases hf : s.out.hbFire = true
  · by_cases hv : s.vcuState = .none
    · simp only [if_pos hf, if_pos hv]
      rfl
    · simp only [if_pos hf, if_neg hv, ← hfault hf hv]
      rfl
  · simp only [if_neg hf]

/-- Phase 4 samples `now` and, where a heartbeat goes out, the transport's answer to it (R150 to R152). -/
theorem schedule_withInp {s : State} {inp : Input} (hnow : s.inp.now = inp.now)
    (hfault : Fires s.inp.now s.lastFireTick → s.vcuState ≠ .none → s.inp.txFaultHb = inp.txFaultHb) :
    schedule (s.withInp inp) = (schedule s).withInp inp := by
  have hcheck : schedFire (schedCheck (s.withInp inp)) = (schedFire (schedCheck s)).withInp inp := by
    rw [schedCheck, schedCheck, State.withInp_inp, ← hnow]
    rfl
  rw [schedule, schedule, hcheck]
  exact txHb_withInp hnow fun hfire => hfault ((fires_elapsedTicks _ _).1 hfire)

/-- PASS_RESUME samples the character and, with one, what its phase 4 samples in the mode just written (R158). -/
theorem resumeStep_withInp {s : State} {inp : Input} (hkey : s.inp.key = inp.key)
    (hphase4 : ∀ c, s.inp.key = some c → s.inp.now = inp.now ∧
      (Fires s.inp.now s.lastFireTick → (modeOfKey c).getD s.vcuState ≠ .none → s.inp.txFaultHb = inp.txFaultHb)) :
    resumeStep (s.withInp inp) = (resumeStep s).withInp inp := by
  rw [resumeStep, resumeStep, State.withInp_inp, ← hkey]
  cases hc : s.inp.key with
  | none => rfl
  | some c =>
    obtain ⟨hnow, hfault⟩ := hphase4 c hc
    have hmode : cmdHbcfg c (beginStep (s.withInp inp)) = (cmdHbcfg c (beginStep s)).withInp inp := by
      rw [cmdHbcfg_eq, cmdHbcfg_eq]
      rfl
    have hsched : schedule ((cmdHbcfg c (beginStep s)).withInp inp) =
        (schedule (cmdHbcfg c (beginStep s))).withInp inp := by
      rw [cmdHbcfg_eq]
      exact schedule_withInp hnow hfault
    simp only [hmode, hsched]
    rfl

/-- Phases 1 to 3 sample the acknowledge, the frame, its fault, the character and, where the KEY_DREQ row runs, the
discharge-request result (R157). -/
theorem phases123_withInp {s : State} {inp : Input} (hack : s.inp.canResetAck = inp.canResetAck)
    (hrx : s.inp.rx = inp.rx) (hrxFault : s.inp.rxFault = inp.rxFault) (hkey : s.inp.key = inp.key)
    (ht : InputTyped s.cfg s.inp)
    (hdreq : s.inp.key ≠ some keyV → s.inp.key = some s.cfg.keyDreq → s.inp.txFaultDreq = inp.txFaultDreq) :
    phases123 (s.withInp inp) = (phases123 s).withInp inp := by
  have hphases12 : phases12 (s.withInp inp) = (phases12 s).withInp inp := by
    have hbegin := acknowledge_beginStep s
    have hstart : acknowledge (beginStep (s.withInp inp)) = (acknowledge (beginStep s)).withInp inp :=
      acknowledge_withInp (s := beginStep s) hack
    rw [phases12, hstart]
    exact rxPhase_withInp (by rw [hbegin, hrx]) (by rw [hbegin, hrxFault])
  obtain ⟨-, -, -, hcfg, hinp⟩ := phases12_frame ht
  rw [phases123_eq, phases123_eq, hphases12]
  exact cmdPhase3_withInp (by rw [hinp, hkey]) (by rw [hinp, hcfg]; exact hdreq)

/-- PASS samples what its phases 1 to 3 do and, unless the key is `'v'`, what its phase 4 does (R157). -/
theorem passStep_withInp {s : State} {inp : Input} (hack : s.inp.canResetAck = inp.canResetAck)
    (hrx : s.inp.rx = inp.rx) (hrxFault : s.inp.rxFault = inp.rxFault) (hkey : s.inp.key = inp.key)
    (ht : InputTyped s.cfg s.inp)
    (hdreq : s.inp.key ≠ some keyV → s.inp.key = some s.cfg.keyDreq → s.inp.txFaultDreq = inp.txFaultDreq)
    (hphase4 : s.inp.key ≠ some keyV → s.inp.now = inp.now ∧
      (Fires s.inp.now s.lastFireTick → s.vcuState ≠ .none → s.inp.txFaultHb = inp.txFaultHb)) :
    passStep (s.withInp inp) = (passStep s).withInp inp := by
  obtain ⟨htick, hmode, -, hinp⟩ := phases123_frame ht
  have hlast : phase4 ((phases123 s).withInp inp) = (phase4 (phases123 s)).withInp inp := by
    rw [phase4, phase4, State.withInp_cmdPhase]
    by_cases htop : (phases123 s).cmdPhase = .top
    · obtain ⟨hnow, hfault⟩ := hphase4 fun hk => by simp [phases123_cmdPhase_of_v ht hk] at htop
      rw [if_pos htop, if_pos htop]
      exact schedule_withInp (by rw [hinp, hnow]) (by rw [hinp, htick, hmode]; exact hfault)
    · rw [if_neg htop, if_neg htop]
  rw [passStep, passStep, phases123_withInp hack hrx hrxFault hkey ht hdreq, hlast]
  rfl

/-- Two typed records that PASS_RESUME treats alike answer alike, where it is refused too. -/
theorem forgetInput_passResume {s : State} {inp : Input} (ht : InputTyped s.cfg s.inp) (ht' : InputTyped s.cfg inp)
    (hstep : resumeStep (s.withInp inp) = (resumeStep s).withInp inp) :
    forgetInput (exec .passResume s) = forgetInput (exec .passResume (s.withInp inp)) := by
  by_cases hphase : s.cmdPhase = .hbConfig
  · rw [exec_passResume hphase ht, exec_passResume (s := s.withInp inp) hphase ht', hstep]
    rfl
  · change forgetInput (execPassResume s) = forgetInput (execPassResume (s.withInp inp))
    rw [execPassResume, execPassResume, State.withInp_cmdPhase, if_neg hphase, if_neg hphase]

/-- Two typed records that PASS treats alike answer alike, where it is refused too. -/
theorem forgetInput_pass {s : State} {inp : Input} (ht : InputTyped s.cfg s.inp) (ht' : InputTyped s.cfg inp)
    (hstep : passStep (s.withInp inp) = (passStep s).withInp inp) :
    forgetInput (exec .pass s) = forgetInput (exec .pass (s.withInp inp)) := by
  by_cases hphase : s.cmdPhase = .top
  · rw [exec_pass hphase ht, exec_pass (s := s.withInp inp) hphase ht', hstep]
    rfl
  · change forgetInput (execPass s) = forgetInput (execPass (s.withInp inp))
    rw [execPass, execPass, State.withInp_cmdPhase, if_neg hphase, if_neg hphase]

/-- Settles O50: each clause supplies the fields `resumeStep_withInp` or `passStep_withInp` needs to agree, the other
premises of the two being about a phase or a row that does not run. -/
theorem unsampledInputsHaveNoEffect : Obligations.UnsampledInputsHaveNoEffect := by
  intro s inp ht ht' hkey
  refine ⟨fun hnow hfault => ?_, fun hnone => ?_, fun hnow hquiet => ?_, fun hack hrx hrxFault =>
    ⟨fun hv => ?_, fun hnow hdreq hfault => ?_⟩⟩
  · exact forgetInput_passResume ht ht' (resumeStep_withInp hkey fun _ _ => ⟨hnow, fun _ _ => hfault⟩)
  · exact forgetInput_passResume ht ht' (resumeStep_withInp hkey fun c hc => by simp [hnone] at hc)
  · exact forgetInput_passResume ht ht' (resumeStep_withInp hkey fun c hc =>
      ⟨hnow, fun hfires hmode => absurd ⟨hfires, hmode⟩ (hquiet c hc)⟩)
  · exact forgetInput_pass ht ht' (passStep_withInp hack hrx hrxFault hkey ht
      (fun hne => absurd hv hne) (fun hne => absurd hv hne))
  · exact forgetInput_pass ht ht' (passStep_withInp hack hrx hrxFault hkey ht
      (fun _ => hdreq) (fun _ => ⟨hnow, hfault⟩))

end Sys2Proof.Machine
end

section
/-! PROOFS. LOADW and STOREW on the frame buffers (R42, R43, R90, R111), and the operands the codec refuses (R46,
R60). -/

namespace Sys2Proof.Machine

/-- Settles O10: each of the four operations tests its operand first. -/
theorem operandsOutsideTheirTypesAreRefused : Obligations.OperandsOutsideTheirTypesAreRefused := by
  intro s w v len start stop signed
  refine ⟨fun hlen => ?_, fun hpair => ?_⟩
  · have hlong : ¬ len ≤ 8 := by omega
    exact ⟨if_neg hlong, if_neg hlong⟩
  · have hbad : ¬ descriptorOk start stop = true := by
      rw [descriptorOk_iff]
      omega
    exact ⟨if_neg hbad, if_neg hbad⟩

/-- LOADW runs on a length in its type (R46, R90). -/
theorem exec_loadw {len : Nat} (hlen : len ≤ 8) (s : State) : exec (.loadw len) s = .next (loadw len s) :=
  if_pos hlen

/-- STOREW runs on a length in its type (R46, R111). -/
theorem exec_storew {len : Nat} (hlen : len ≤ 8) (w : Word) (s : State) :
    exec (.storew w len) s = .next (s.withTxBuf (storeWord s.txBuf w len)) :=
  if_pos hlen

/-- Settles O11: the rounds of LOADW's loop add up to the sum (`loadWord_eq_payloadWord`). -/
theorem loadwIsTheBigEndianSum : Obligations.LoadwIsTheBigEndianSum := by
  intro s len hlen
  rw [exec_loadw hlen, loadw, loadWord_eq_payloadWord _ _ hlen]
  rfl

/-- The mask of the top `n` bits of a word. -/
theorem ones_shiftLeft_top_getLsbD {n i : Nat} (hn : n ≤ 64) (hi : i < 64) :
    (ones n <<< (64 - n)).getLsbD i = decide (64 - n ≤ i) := by
  rw [BitVec.getLsbD_shiftLeft, ones_getLsbD, Bool.eq_iff_iff]
  simp only [Bool.and_eq_true, Bool.not_eq_true', decide_eq_true_eq, decide_eq_false_iff_not]
  omega

/-- Loading what STOREW stored gives the word's top `8 * len` bits: bit `i` is bit `i % 8` of byte `(63 - i) / 8`
on both sides (R43). -/
theorem loadWord_storeWord (b : Buffer) (w : Word) {len : Nat} (hlen : len ≤ 8) :
    loadWord (storeWord b w len).mem len = w &&& (ones (8 * len) <<< (64 - 8 * len)) := by
  apply BitVec.eq_of_getLsbD_eq
  intro i hi
  rw [loadWord_getLsbD _ _ _ hlen hi, storeWord_read, if_pos (by omega), BitVec.getLsbD_and,
    ones_shiftLeft_top_getLsbD (by omega) hi]
  by_cases hvalid : (63 - i) / 8 < len
  · have hpos : 56 - 8 * ((63 - i) / 8) + i % 8 = i := by omega
    have htop : 64 - 8 * len ≤ i := by omega
    rw [if_pos hvalid, byteOf_getLsbD, hpos]
    simp [hvalid, htop, Nat.mod_lt]
  · have hlow : ¬ 64 - 8 * len ≤ i := by omega
    simp [hvalid, hlow]

/-- Settles O13, by the law of `storeWord` and `loadWord` on buffers. -/
theorem loadOfStoreKeepsTheTopBytes : Obligations.LoadOfStoreKeepsTheTopBytes := by
  intro s w len hlen
  refine ⟨_, exec_storew hlen w s, ?_⟩
  rw [exec_loadw hlen, loadw, State.withTxBuf_txBuf, loadWord_storeWord _ _ hlen]
  rfl

end Sys2Proof.Machine
end

section
/-! PROOFS. What decodes is well formed: each operand is within its type, and an "other" row holds no code of
another row (R76, R77, R92). -/

namespace Sys2Proof

/-- Every operation the answer names is well formed. -/
def NamesWf (cfg : Config) (d : Decoded) : Prop := ∀ i rest, d = .ok (i, rest) → i.wf cfg = true

theorem namesWf_ok {cfg : Config} {i : Instr} (hwf : i.wf cfg = true) (rest : List Byte) :
    NamesWf cfg (.ok (i, rest)) := by
  intro j rest' h
  cases h
  exact hwf

theorem namesWf_error (cfg : Config) (e : DecodeError) : NamesWf cfg (.error e) := nofun

theorem namesWf_ite {cfg : Config} {c : Prop} [Decidable c] {d d' : Decoded} (hd : c → NamesWf cfg d)
    (hd' : ¬ c → NamesWf cfg d') : NamesWf cfg (if c then d else d') := by
  split
  · exact hd ‹_›
  · exact hd' ‹_›

theorem namesWf_checked (cfg : Config) (i : Instr) (e : DecodeError) (rest : List Byte) :
    NamesWf cfg (checked cfg i e rest) :=
  namesWf_ite (fun hwf => namesWf_ok hwf rest) fun _ => namesWf_error cfg e

theorem namesWf_withBE {cfg : Config} {n : Nat} {bs : List Byte} {k : Nat → List Byte → Decoded}
    (hk : ∀ v rest, NamesWf cfg (k v rest)) : NamesWf cfg (withBE n bs k) := by
  unfold withBE
  split
  · exact namesWf_error cfg _
  · exact hk _ _

theorem namesWf_withWord {cfg : Config} {bs : List Byte} {k : Word → List Byte → Decoded}
    (hk : ∀ w rest, NamesWf cfg (k w rest)) : NamesWf cfg (withWord bs k) :=
  namesWf_withBE fun _ _ => hk _ _

theorem namesWf_withByte {cfg : Config} {bs : List Byte} {k : Byte → List Byte → Decoded}
    (hk : ∀ b rest, NamesWf cfg (k b rest)) : NamesWf cfg (withByte bs k) := by
  cases bs with
  | nil => exact namesWf_error cfg _
  | cons b rest => exact hk b rest

/-- An identifier in range selects a well-formed ROUTE row (R92). -/
theorem decodeIdent_wf {cfg : Config} {id : Nat} (hid : id < 2 ^ cfg.idWidth) :
    (decodeIdent cfg id).wf cfg = true := by
  unfold decodeIdent
  split_ifs
  case neg h1 h2 h3 h4 h5 => simp [Instr.wf, receivedIds, hid, h1, h2, h3, h4, h5]
  all_goals rfl

/-- Every character selects a well-formed top-level row (R76). -/
theorem decodeTopKey_wf (cfg : Config) (c : Byte) : (decodeTopKey cfg c).wf cfg = true := by
  unfold decodeTopKey
  split_ifs with hv hd
  · rfl
  · rfl
  · simp [Instr.wf, hv, hd]

/-- Every character selects a well-formed sub-menu row (R77). -/
theorem decodeCfgKey_wf (cfg : Config) (c : Byte) : (decodeCfgKey c).wf cfg = true := by
  unfold decodeCfgKey
  split_ifs with hs hd hn
  · rfl
  · rfl
  · rfl
  · simp [Instr.wf, hs, hd, hn]

theorem namesWf_decodeFunction (cfg : Config) (f : FunctionName) (bs : List Byte) :
    NamesWf cfg (decodeFunction cfg f bs) := by
  cases f with
  | loadw => exact namesWf_withByte fun _ _ => namesWf_checked _ _ _ _
  | extract =>
    rw [decodeFunction]
    exact namesWf_withWord fun _ _ => namesWf_withByte fun _ _ => namesWf_withByte fun _ _ =>
      namesWf_withByte fun _ _ => namesWf_ite (fun _ => namesWf_error _ _) fun _ => namesWf_checked _ _ _ _
  | classifyState =>
    exact namesWf_withByte fun _ _ => namesWf_ite (fun _ => namesWf_error _ _) fun _ => namesWf_ok rfl _
  | insert =>
    rw [decodeFunction]
    exact namesWf_withWord fun _ _ => namesWf_withByte fun _ _ => namesWf_withByte fun _ _ =>
      namesWf_withWord fun _ _ => namesWf_checked _ _ _ _
  | storew =>
    rw [decodeFunction]
    exact namesWf_withWord fun _ _ => namesWf_withByte fun _ _ => namesWf_checked _ _ _ _
  | cmdHbcfg => exact namesWf_withByte fun _ _ => namesWf_ok rfl _
  | rxPhase | cmdPhase3 | render | schedCheck | schedCheckFire | txHb | txHbNone | pass | passResume | reset =>
    exact namesWf_ok rfl _

theorem namesWf_decodeForm (cfg : Config) (f : Form) (bs : List Byte) : NamesWf cfg (decodeForm cfg f bs) := by
  cases f with
  | bmsHeartbeat | bmsDischargeResponse =>
    rw [decodeForm]
    exact namesWf_withWord fun _ _ => namesWf_ok rfl _
  | vcuHeartbeatCmd =>
    exact namesWf_withByte fun _ _ => namesWf_ite (fun _ => namesWf_ok rfl _) fun _ =>
      namesWf_ite (fun _ => namesWf_ok rfl _) fun _ => namesWf_error _ _
  | vcuDischargeRequest =>
    exact namesWf_withByte fun _ _ => namesWf_ite (fun _ => namesWf_ok rfl _) fun _ => namesWf_error _ _
  | bmsHeartbeatPacked | bmsDischargeResponsePacked =>
    exact namesWf_withWord fun _ _ => namesWf_ite (fun _ => namesWf_ok rfl _) fun _ => namesWf_error _ _
  | ident =>
    exact namesWf_withBE fun _ _ => namesWf_ite (fun hid => namesWf_ok (decodeIdent_wf hid) _) fun _ =>
      namesWf_error _ _
  | keyTop => exact namesWf_withByte fun c _ => namesWf_ok (decodeTopKey_wf cfg c) _
  | keyCfg => exact namesWf_withByte fun c _ => namesWf_ok (decodeCfgKey_wf cfg c) _
  | noFrame | noCharCfg | noCharTop => exact namesWf_ok rfl _
  | function =>
    refine namesWf_withByte fun b rest => ?_
    cases FunctionName.ofByte b with
    | none => exact namesWf_error _ _
    | some g => exact namesWf_decodeFunction cfg g rest

theorem namesWf_decode (cfg : Config) (bs : List Byte) : NamesWf cfg (decode cfg bs) := by
  cases bs with
  | nil => exact namesWf_error _ _
  | cons b bs =>
    rw [decode]
    cases Form.ofByte b with
    | none => exact namesWf_error _ _
    | some f => exact namesWf_decodeForm cfg f bs

/-- What decodes is well formed. -/
theorem decode_wf {cfg : Config} {bs rest : List Byte} {i : Instr} (h : decode cfg bs = .ok (i, rest)) :
    i.wf cfg = true :=
  namesWf_decode cfg bs i rest h

end Sys2Proof
end

section
/-! PROOFS. The fetch of a step names a well-formed operation and changes only the line-up and the input record
(R16, R161); no operation changes the configuration (R53). -/

namespace Sys2Proof.Machine

/-- The two states differ at most in the registers, the line-up, the inputs and the latches: not in the
configuration, the frame buffers or the output record. -/
structure SameBuffersAndOutput (s t : State) : Prop where
  cfg : t.cfg = s.cfg
  rxBuf : t.rxBuf = s.rxBuf
  txBuf : t.txBuf = s.txBuf
  out : t.out = s.out

/-- Taking an event of the loop driver writes the input record only. -/
theorem SameBuffersAndOutput.of_acceptEvent {e : LoopEvent} {s u s' : State} {o : Option Instr}
    (hev : acceptEvent e u = (o, s')) (h : SameBuffersAndOutput s u) : SameBuffersAndOutput s s' := by
  cases e <;> cases hev <;> exact ⟨h.cfg, h.rxBuf, h.txBuf, h.out⟩

/-- A step of the block has no operand. -/
theorem acceptEvent_wf {e : LoopEvent} {s s' : State} {i : Instr} (cfg : Config)
    (h : acceptEvent e s = (some i, s')) : i.wf cfg = true := by
  cases e with
  | iterate inp =>
    obtain rfl : selectStep s.cmdPhase = i := Option.some.inj (congrArg Prod.fst h)
    cases s.cmdPhase <;> rfl
  | reset =>
    obtain rfl : Instr.reset = i := Option.some.inj (congrArg Prod.fst h)
    rfl

/-- The fetch touches the line-up, the draws and the input record only. -/
theorem fetch_frame {s s' : State} {o : Option Instr} (h : fetch s = .ok (o, s')) : SameBuffersAndOutput s s' := by
  cases o with
  | some i =>
    obtain ⟨-, hev⟩ | ⟨e, rest, -, hev⟩ | ⟨code, inp, rest, -, -, rfl⟩ := fetch_some h
    · exact .of_acceptEvent hev ⟨rfl, rfl, rfl, rfl⟩
    · exact .of_acceptEvent hev ⟨rfl, rfl, rfl, rfl⟩
    · exact ⟨rfl, rfl, rfl, rfl⟩
  | none =>
    obtain ⟨code, inp, rest, -, -, rfl⟩ := fetch_none h
    exact ⟨rfl, rfl, rfl, rfl⟩

/-- The operation a step runs is well formed: a step of the block, or what a call code decodes to. -/
theorem fetch_wf {s s' : State} {i : Instr} (h : fetch s = .ok (some i, s')) : i.wf s.cfg = true := by
  obtain ⟨-, hev⟩ | ⟨e, rest, -, hev⟩ | ⟨code, inp, rest, -, hdec, -⟩ := fetch_some h
  · exact acceptEvent_wf _ hev
  · exact acceptEvent_wf _ hev
  · exact decode_wf hdec

theorem rxPhase_cfg {s : State} (ht : InputTyped s.cfg s.inp) : (rxPhase s).cfg = s.cfg := by
  obtain ⟨-, -, -, hcfg, -⟩ := rxPhase_fields s ht
  exact hcfg

theorem cmdPhase3_cfg (s : State) : (cmdPhase3 s).cfg = s.cfg := by
  obtain ⟨-, -, hcfg, -⟩ := cmdPhase3_frame s
  exact hcfg

theorem txHb_cfg (s : State) : (txHb s).cfg = s.cfg := by
  rw [txHb_eq]
  split_ifs <;> rfl

theorem skipHeartbeat_cfg (s : State) : (skipHeartbeat s).cfg = s.cfg := by
  rw [skipHeartbeat, stampIf]
  split <;> rfl

theorem txHbNone_cfg (s : State) : (txHbNone s).cfg = s.cfg := by
  rw [txHbNone]
  split
  · exact skipHeartbeat_cfg _
  · rfl

theorem schedule_cfg (s : State) : (schedule s).cfg = s.cfg := txHb_cfg _

theorem phase4_cfg (s : State) : (phase4 s).cfg = s.cfg := by
  rw [phase4]
  split
  · exact schedule_cfg s
  · rfl

theorem passStep_cfg {s : State} (ht : InputTyped s.cfg s.inp) : (passStep s).cfg = s.cfg := by
  obtain ⟨-, -, hcfg, -⟩ := phases123_frame ht
  exact (phase4_cfg _).trans hcfg

theorem resumeStep_cfg (s : State) : (resumeStep s).cfg = s.cfg := by
  unfold resumeStep
  split
  · rfl
  · rename_i c _
    have hkey : (cmdHbcfg c (beginStep s)).cfg = s.cfg := by
      rw [cmdHbcfg_eq]
      rfl
    exact (schedule_cfg _).trans hkey

/-- No operation changes the configuration (R53). -/
theorem exec_cfg {i : Instr} {s t : State} (h : exec i s = .next t) : t.cfg = s.cfg := by
  cases i with
  | decHb _ | decDr _ | encHbcmdStandby | encHbcmdDischarge | encDreq | encBmshb _ _ | encBmsdr _
  | routeBmsHeartbeat | routeBmsDischargeResponse | routeBmsPackStatus | routeBmsCellTemps | routeBmsErrors
  | routeUnknown _ | routeNone | cmdTopV | cmdTopOther _ | cmdHbcfgS | cmdHbcfgD | cmdHbcfgN | cmdHbcfgOther _
  | cmdHbcfgNone | cmdTopNone | classifyState _ | render | schedCheck | schedCheckFire | reset =>
    obtain rfl := Host.Outcome.next.inj h
    rfl
  | loadw _ | extract _ _ _ _ | insert _ _ _ _ | storew _ _ =>
    obtain rfl := next_of_ite_refused h
    rfl
  | cmdTopKeyDreq =>
    obtain rfl : dischargeRequest s = t := Host.Outcome.next.inj h
    rw [dischargeRequest_eq]
  | cmdHbcfg c =>
    obtain rfl : cmdHbcfg c s = t := Host.Outcome.next.inj h
    rw [cmdHbcfg_eq]
  | cmdPhase3 =>
    obtain rfl : cmdPhase3 s = t := Host.Outcome.next.inj h
    exact cmdPhase3_cfg s
  | rxPhase =>
    obtain ⟨htyped, rfl⟩ := withTypedInput_next h
    exact rxPhase_cfg htyped
  | txHb =>
    obtain rfl : txHb s = t := Host.Outcome.next.inj h
    exact txHb_cfg s
  | txHbNone =>
    obtain rfl : txHbNone s = t := Host.Outcome.next.inj h
    exact txHbNone_cfg s
  | pass =>
    obtain ⟨-, htyped, rfl⟩ := exec_pass_next h
    exact passStep_cfg htyped
  | passResume =>
    obtain ⟨-, -, rfl⟩ := exec_passResume_next h
    exact resumeStep_cfg s

/-- Settles O48: the fetch leaves the configuration, and so does the operation it names. -/
theorem configurationIsConstant : Obligations.ConfigurationIsConstant := by
  intro s t h
  obtain ⟨-, ⟨i, s', hfetch, hexec⟩ | hfetch⟩ := step_next h
  · exact (exec_cfg hexec).trans (fetch_frame hfetch).cfg
  · exact (fetch_frame hfetch).cfg

end Sys2Proof.Machine
end

section
/-! PROOFS. The invariant: an operation leaves both frame buffers in form, and appends to `tx` and `diag` only
frames and events the block may send and raise (R40, R160, R184). -/

namespace Sys2Proof.Machine

/-! ### Buffers -/

/-- A frame buffer in canonical form with at most 8 valid bytes (R14, R40). -/
def BufferOk (b : Buffer) : Prop := b.mem.wf = true ∧ b.len ≤ 8

theorem bufferOk_empty : BufferOk Buffer.empty := ⟨rfl, Nat.zero_le 8⟩

theorem BufferOk.receive {b : Buffer} {f : Frame} (h : BufferOk b) (hlen : f.len ≤ 8) : BufferOk (b.receive f) :=
  ⟨Buffer.receive_wf b f h.1, hlen⟩

theorem BufferOk.storeWord {b : Buffer} {len : Nat} (h : BufferOk b) (w : Word) (hlen : len ≤ 8) :
    BufferOk (storeWord b w len) :=
  ⟨storeWord_wf b w len h.1, hlen⟩

/-- RX_PHASE leaves the RX buffer as it was, or with the received frame in it (R97). -/
theorem rxPhase_rxBuf_ok {s : State} (ht : InputTyped s.cfg s.inp) (h : BufferOk s.rxBuf) :
    BufferOk (rxPhase s).rxBuf := by
  rw [rxPhase_eq]
  split
  · rename_i f hrx _
    obtain ⟨hlen, -⟩ := ht.1 f hrx
    rw [rxHeartbeat_eq f _ hlen]
    exact h.receive hlen
  · rename_i f hrx _
    obtain ⟨hlen, -⟩ := ht.1 f hrx
    rw [rxDischargeResponse_eq f _ hlen]
    exact h.receive hlen
  · exact h

/-! ### Frames and events -/

theorem tagFrame_ok {cfg : Config} {id : Nat} (hid : id = cfg.idVcuHeartbeat ∨ id = cfg.idVcuDischargeRequest)
    (tag : BitVec 1) : TxFrameOk cfg (tagFrame id tag) :=
  ⟨rfl, hid, tag, rfl⟩

theorem dreqFrame_ok (cfg : Config) : ∀ f ∈ [dreqFrame cfg], TxFrameOk cfg f := by
  intro f hf
  rw [List.mem_singleton.1 hf]
  exact tagFrame_ok (.inr rfl) _

theorem heartbeatFrames_ok (cfg : Config) (mode : VcuState) : ∀ f ∈ heartbeatFrames cfg mode, TxFrameOk cfg f := by
  intro f hf
  cases mode with
  | standby | discharge =>
    rw [List.mem_singleton.1 hf]
    exact tagFrame_ok (.inl rfl) _
  | none => cases hf

/-- A transport event carries a non-zero code (R181). -/
theorem transportEvents_ok (cfg : Config) (dir : Direction) (code : Nat) :
    ∀ d ∈ transportEvents dir code, DiagOk cfg d := by
  intro d hd
  rw [transportEvents] at hd
  split at hd
  case isTrue => cases hd
  case isFalse hcode =>
    rw [List.mem_singleton.1 hd]
    exact hcode

/-- A named code is listed among the six (R70). -/
theorem NamedCode.mem {cfg : Config} {st : BitVec 3} (h : NamedCode cfg st) : st ∈ stateCodes cfg := by
  obtain ⟨n, rfl⟩ := h
  rw [stateCodes_eq_map]
  exact List.mem_map_of_mem (mem_bmsStates n)

/-- An enumeration event carries a reserved code (R97, R98). -/
theorem enumEvents_ok (cfg : Config) (rx : Option Frame) : ∀ d ∈ enumEvents cfg rx, DiagOk cfg d := by
  intro d hd
  cases rx with
  | none => cases hd
  | some f =>
    rw [enumEvents] at hd
    split at hd
    case isTrue hreserved =>
      rw [List.mem_singleton.1 hd]
      exact fun hnamed => hreserved.2 hnamed.mem
    case isFalse => cases hd

/-- The event of a second key carries a key outside the table (R77, R138). -/
theorem cfgKeyEvents_ok (cfg : Config) (c : Byte) : ∀ d ∈ cfgKeyEvents c, DiagOk cfg d := by
  intro d hd
  rw [cfgKeyEvents] at hd
  split at hd
  case isTrue hmode =>
    rw [List.mem_singleton.1 hd]
    refine ⟨?_, ?_, ?_⟩ <;> rintro rfl <;> exact absurd hmode (by decide)
  case isFalse => cases hd

/-! ### How an operation keeps the invariant -/

/-- The invariant after a step that appends frames and events of the block and leaves both buffers in form. -/
theorem Inv.of_append {s t : State} {frames : List Frame} {events : List Diag} (h : Inv s) (hcfg : t.cfg = s.cfg)
    (hrx : BufferOk t.rxBuf) (htx : BufferOk t.txBuf) (htxs : t.out.tx = s.out.tx ++ frames)
    (hframes : ∀ f ∈ frames, TxFrameOk s.cfg f) (hdiag : t.out.diag = s.out.diag ++ events)
    (hevents : ∀ d ∈ events, DiagOk s.cfg d) : Inv t where
  rxWf := hrx.1
  rxLen := hrx.2
  txWf := htx.1
  txLen := htx.2
  txOk := by
    rw [htxs, hcfg]
    exact List.forall_mem_append.2 ⟨h.txOk, hframes⟩
  diagOk := by
    rw [hdiag, hcfg]
    exact List.forall_mem_append.2 ⟨h.diagOk, hevents⟩

theorem Inv.rxBufOk {s : State} (h : Inv s) : BufferOk s.rxBuf := ⟨h.rxWf, h.rxLen⟩

theorem Inv.txBufOk {s : State} (h : Inv s) : BufferOk s.txBuf := ⟨h.txWf, h.txLen⟩

/-- The invariant speaks of the configuration, the buffers, `tx` and `diag` only. -/
theorem Inv.of_unchanged {s t : State} (h : Inv s) (hcfg : t.cfg = s.cfg) (hrx : t.rxBuf = s.rxBuf)
    (htx : t.txBuf = s.txBuf) (htxs : t.out.tx = s.out.tx) (hdiag : t.out.diag = s.out.diag) : Inv t :=
  h.of_append hcfg (hrx ▸ h.rxBufOk) (htx ▸ h.txBufOk) (htxs.trans (List.append_nil _).symm)
    (List.forall_mem_nil _) (hdiag.trans (List.append_nil _).symm) (List.forall_mem_nil _)

theorem SameBuffersAndOutput.inv {s t : State} (hsame : SameBuffersAndOutput s t) (h : Inv s) : Inv t :=
  h.of_unchanged hsame.cfg hsame.rxBuf hsame.txBuf (congrArg Output.tx hsame.out) (congrArg Output.diag hsame.out)

/-- Raising an event with a cause keeps the invariant (R184). -/
theorem raiseDiag_inv {s : State} {d : Diag} (h : Inv s) (hd : DiagOk s.cfg d) : Inv (raiseDiag d s) :=
  h.of_append rfl h.rxBufOk h.txBufOk (List.append_nil _).symm (List.forall_mem_nil _) rfl
    (List.forall_mem_singleton.2 hd)

theorem dischargeRequest_inv {s : State} (h : Inv s) : Inv (dischargeRequest s) := by
  rw [dischargeRequest_eq]
  exact h.of_append rfl h.rxBufOk (h.txBufOk.storeWord _ (by decide)) rfl (dreqFrame_ok _) rfl
    (transportEvents_ok _ _ _)

theorem rxPhase_inv {s : State} (ht : InputTyped s.cfg s.inp) (h : Inv s) : Inv (rxPhase s) := by
  obtain ⟨-, -, -, hcfg, -, -, -, htx, -, htxs, -, -, hdiag⟩ := rxPhase_fields s ht
  rw [List.append_assoc] at hdiag
  exact h.of_append hcfg (rxPhase_rxBuf_ok ht h.rxBufOk) (htx ▸ h.txBufOk) (htxs.trans (List.append_nil _).symm)
    (List.forall_mem_nil _) hdiag
    (List.forall_mem_append.2 ⟨transportEvents_ok _ _ _, enumEvents_ok _ _⟩)

/-- CMD_PHASE_3 opens the sub-menu, sends the discharge request, or reports a key outside the table (R130). -/
theorem cmdPhase3_inv {s : State} (h : Inv s) : Inv (cmdPhase3 s) := by
  unfold cmdPhase3
  split
  · exact h
  · unfold cmdTop
    split_ifs with hv hd
    · exact h.of_unchanged rfl rfl rfl rfl rfl
    · exact dischargeRequest_inv h
    · exact raiseDiag_inv h ⟨hv, hd⟩

theorem cmdHbcfg_inv {s : State} (c : Byte) (h : Inv s) : Inv (cmdHbcfg c s) := by
  rw [cmdHbcfg_eq]
  exact h.of_append rfl h.rxBufOk h.txBufOk (List.append_nil _).symm (List.forall_mem_nil _) rfl
    (cfgKeyEvents_ok _ c)

/-- TX_HB sends the heartbeat of the mode and reports the transport's answer, or does neither (R152, R153). -/
theorem txHb_inv {s : State} (h : Inv s) : Inv (txHb s) := by
  rw [txHb_eq]
  by_cases hfire : s.out.hbFire = true
  · rw [if_pos hfire]
    by_cases hmode : s.vcuState = .none
    · rw [if_pos hmode]
      exact h.of_unchanged rfl rfl rfl rfl rfl
    · rw [if_neg hmode]
      exact h.of_append rfl h.rxBufOk (h.txBufOk.storeWord _ (by decide)) rfl (heartbeatFrames_ok _ _) rfl
        (transportEvents_ok _ _ _)
  · rw [if_neg hfire]
    exact h

theorem txHbNone_inv {s : State} (h : Inv s) : Inv (txHbNone s) := by
  unfold txHbNone skipHeartbeat stampIf
  split_ifs
  · exact h.of_unchanged rfl rfl rfl rfl rfl
  · exact h.of_unchanged rfl rfl rfl rfl rfl
  · exact h

theorem schedule_inv {s : State} (h : Inv s) : Inv (schedule s) :=
  txHb_inv (h.of_unchanged (t := schedFire (schedCheck s)) rfl rfl rfl rfl rfl)

theorem phase4_inv {s : State} (h : Inv s) : Inv (phase4 s) := by
  rw [phase4]
  split
  · exact schedule_inv h
  · exact h

theorem publish_inv {s : State} (h : Inv s) : Inv (publish s) := h.of_unchanged rfl rfl rfl rfl rfl

/-- A state with empty buffers and nothing sent or raised meets the invariant. -/
theorem inv_of_empty {s : State} (hrx : s.rxBuf = Buffer.empty) (htx : s.txBuf = Buffer.empty)
    (htxs : s.out.tx = []) (hdiag : s.out.diag = []) : Inv s where
  rxWf := hrx ▸ bufferOk_empty.1
  rxLen := hrx ▸ bufferOk_empty.2
  txWf := htx ▸ bufferOk_empty.1
  txLen := htx ▸ bufferOk_empty.2
  txOk := htxs ▸ List.forall_mem_nil _
  diagOk := hdiag ▸ List.forall_mem_nil _

/-- Settles O46: reset leaves the buffers and both lists empty. -/
theorem invariantHoldsAtReset : Obligations.InvariantHoldsAtReset :=
  fun _ => inv_of_empty rfl rfl rfl rfl

/-- A PASS keeps the invariant through its four phases, whatever held before it (R157). -/
theorem passStep_inv {s : State} (ht : InputTyped s.cfg s.inp) : Inv (passStep s) := by
  have hstart : Inv (acknowledge (beginStep s)) := by
    rw [acknowledge_beginStep]
    exact inv_of_empty rfl rfl rfl rfl
  have htyped : InputTyped (acknowledge (beginStep s)).cfg (acknowledge (beginStep s)).inp := by
    rw [acknowledge_beginStep]
    exact ht
  exact publish_inv (phase4_inv (cmdPhase3_inv (rxPhase_inv htyped hstart)))

/-- A PASS_RESUME keeps the invariant, with a character or without (R158). -/
theorem resumeStep_inv (s : State) : Inv (resumeStep s) := by
  have hstart : Inv (beginStep s) := inv_of_empty rfl rfl rfl rfl
  unfold resumeStep
  split
  · exact publish_inv hstart
  · exact publish_inv (schedule_inv (cmdHbcfg_inv _ hstart))

/-- Every operation keeps the invariant. The "other" rows need that their key is outside the table. -/
theorem exec_inv {i : Instr} {s t : State} (hwf : i.wf s.cfg = true) (hinv : Inv s) (h : exec i s = .next t) :
    Inv t := by
  cases i with
  | decHb _ | decDr _ | encHbcmdStandby | encHbcmdDischarge | encDreq | encBmshb _ _ | encBmsdr _
  | routeBmsHeartbeat | routeBmsDischargeResponse | routeBmsPackStatus | routeBmsCellTemps | routeBmsErrors
  | routeUnknown _ | routeNone | cmdTopV | cmdHbcfgS | cmdHbcfgD | cmdHbcfgN | cmdHbcfgNone | cmdTopNone
  | classifyState _ | render | schedCheck | schedCheckFire =>
    obtain rfl := Host.Outcome.next.inj h
    exact hinv.of_unchanged rfl rfl rfl rfl rfl
  | loadw _ | extract _ _ _ _ | insert _ _ _ _ =>
    obtain rfl := next_of_ite_refused h
    exact hinv.of_unchanged rfl rfl rfl rfl rfl
  | storew w len =>
    have hlen : len ≤ 8 := of_decide_eq_true hwf
    obtain rfl := next_of_ite_refused h
    exact hinv.of_append rfl hinv.rxBufOk (hinv.txBufOk.storeWord w hlen) (List.append_nil _).symm
      (List.forall_mem_nil _) (List.append_nil _).symm (List.forall_mem_nil _)
  | cmdTopKeyDreq =>
    obtain rfl : dischargeRequest s = t := Host.Outcome.next.inj h
    exact dischargeRequest_inv hinv
  | cmdTopOther c =>
    obtain rfl : unrecognised .top c s = t := Host.Outcome.next.inj h
    have hkey : c ≠ keyV ∧ c ≠ s.cfg.keyDreq := by simpa [Instr.wf] using hwf
    exact raiseDiag_inv hinv hkey
  | cmdHbcfgOther c =>
    obtain rfl : leaveSubmenu c s = t := Host.Outcome.next.inj h
    have hkey : c ≠ keyS ∧ c ≠ keyD ∧ c ≠ keyN := by simpa [Instr.wf, and_assoc] using hwf
    exact (raiseDiag_inv (d := .unrecognizedCmd .hbConfig c) hinv hkey).of_unchanged rfl rfl rfl rfl rfl
  | cmdHbcfg c =>
    obtain rfl : cmdHbcfg c s = t := Host.Outcome.next.inj h
    exact cmdHbcfg_inv c hinv
  | cmdPhase3 =>
    obtain rfl : cmdPhase3 s = t := Host.Outcome.next.inj h
    exact cmdPhase3_inv hinv
  | rxPhase =>
    obtain ⟨htyped, rfl⟩ := withTypedInput_next h
    exact rxPhase_inv htyped hinv
  | txHb =>
    obtain rfl : txHb s = t := Host.Outcome.next.inj h
    exact txHb_inv hinv
  | txHbNone =>
    obtain rfl : txHbNone s = t := Host.Outcome.next.inj h
    exact txHbNone_inv hinv
  | pass =>
    obtain ⟨-, htyped, rfl⟩ := exec_pass_next h
    exact passStep_inv htyped
  | passResume =>
    obtain ⟨-, -, rfl⟩ := exec_passResume_next h
    exact resumeStep_inv s
  | reset =>
    obtain rfl : resetStep s = t := Host.Outcome.next.inj h
    exact inv_of_empty rfl rfl rfl rfl

/-- Settles O47: the fetch leaves what the invariant speaks of and names a well-formed operation, and every
operation keeps the invariant. -/
theorem stepKeepsTheInvariant : Obligations.StepKeepsTheInvariant := by
  intro s t hinv h
  obtain ⟨-, ⟨i, s', hfetch, hexec⟩ | hfetch⟩ := step_next h
  · have hframe := fetch_frame hfetch
    exact exec_inv (hframe.cfg ▸ fetch_wf hfetch) (hframe.inv hinv) hexec
  · exact (fetch_frame hfetch).inv hinv

end Sys2Proof.Machine
end

section
/-! PROOFS. The decoders as arithmetic on the word (R12, R91, R93, R94), and the bits they read (R96). -/

namespace Sys2Proof

/-- The field's bits, taken from the word by division and kept to the field's width (R12). -/
theorem extractBits_eq_setWidth (w : Word) {start stop : Nat} (h63 : start ≤ 63) (hle : stop ≤ start) :
    extractBits w start stop = (BitVec.ofNat (start - stop + 1) (w.toNat / 2 ^ stop)).setWidth 64 := by
  apply BitVec.eq_of_toNat_eq
  rw [extractBits_toNat w start stop hle h63, fieldWidth, BitVec.toNat_setWidth_of_le (by omega), BitVec.toNat_ofNat]

/-- `sext` of a zero-extended value is its sign extension: the bits below `width` are the value's, the ones above its
top bit (R10). -/
theorem signExtendFrom_setWidth {width : Nat} (v : BitVec width) (h64 : width ≤ 64) :
    signExtendFrom width (v.setWidth 64) = v.signExtend 64 := by
  apply BitVec.eq_of_getLsbD_eq
  intro i hi
  have htop : (v.setWidth 64).getLsbD (width - 1) = v.msb := by
    have hin : width - 1 < 64 := by omega
    simp [BitVec.msb_eq_getLsbD_last, hin]
  have hmask : (v.setWidth 64 ||| ~~~ ones width).getLsbD i = (v.getLsbD i || !decide (i < width)) := by
    rw [BitVec.getLsbD_or, BitVec.getLsbD_not, BitVec.getLsbD_setWidth, ones_getLsbD]
    simp [hi]
  rw [signExtendFrom, htop, apply_ite (BitVec.getLsbD · i), hmask, BitVec.getLsbD_setWidth,
    BitVec.getLsbD_signExtend]
  by_cases hin : i < width
  · simp [hi, hin]
  · have habove : v.getLsbD i = false := BitVec.getLsbD_of_ge v i (by omega)
    simp [hi, hin, habove]

/-- A field as wide as its type is the word divided down to the field's low bit. -/
theorem setWidth_extractBits (w : Word) {start stop n : Nat} (h63 : start ≤ 63) (hn : start + 1 = stop + n)
    (hpos : 0 < n) : (extractBits w start stop).setWidth n = BitVec.ofNat n (w.toNat / 2 ^ stop) := by
  have hwidth : fieldWidth start stop = n := by rw [fieldWidth]; omega
  apply BitVec.eq_of_toNat_eq
  rw [BitVec.toNat_setWidth, extractBits_toNat w start stop (by omega) h63, hwidth, Nat.mod_mod, BitVec.toNat_ofNat]

theorem hbStateOf_eq_ofNat {cfg : Config} (hok : cfg.ok = true) (w : Word) :
    hbStateOf cfg w = BitVec.ofNat 3 (w.toNat / 2 ^ cfg.hbStateEnd) := by
  obtain ⟨h63, hwidth, -⟩ := Config.layout_of_ok hok
  exact setWidth_extractBits w h63 (by omega) (by decide)

theorem hbSocOf_eq_ofNat {cfg : Config} (hok : cfg.ok = true) (w : Word) :
    hbSocOf cfg w = BitVec.ofNat 10 (w.toNat / 2 ^ cfg.hbSocEnd) := by
  obtain ⟨-, -, h63, hwidth, -⟩ := Config.layout_of_ok hok
  exact setWidth_extractBits w h63 (by omega) (by decide)

/-- The response is the one bit at `P_DR_START` (R94). -/
theorem drOf_eq_ofBool {cfg : Config} (hok : cfg.ok = true) (w : Word) :
    drOf cfg w = BitVec.ofBool (w.getLsbD cfg.drStart) := by
  apply BitVec.eq_of_getLsbD_eq
  intro i hi
  obtain rfl : i = 0 := by omega
  rw [drOf_getLsbD hok, BitVec.getLsbD_ofBool]
  rfl

/-- The `state` field reads the bits of its range only (R96). -/
theorem hbStateOf_congr {cfg : Config} (hok : cfg.ok = true) {w w' : Word}
    (hbits : ∀ b, cfg.hbStateEnd ≤ b → b ≤ cfg.hbStateStart → w.getLsbD b = w'.getLsbD b) :
    hbStateOf cfg w = hbStateOf cfg w' := by
  obtain ⟨-, hwidth, -⟩ := Config.layout_of_ok hok
  apply BitVec.eq_of_getLsbD_eq
  intro i hi
  rw [hbStateOf_getLsbD hok, hbStateOf_getLsbD hok, hbits _ (by omega) (by omega)]

/-- The `soc_percentage` field reads the bits of its range only (R96). -/
theorem hbSocOf_congr {cfg : Config} (hok : cfg.ok = true) {w w' : Word}
    (hbits : ∀ b, cfg.hbSocEnd ≤ b → b ≤ cfg.hbSocStart → w.getLsbD b = w'.getLsbD b) :
    hbSocOf cfg w = hbSocOf cfg w' := by
  obtain ⟨-, -, -, hwidth, -⟩ := Config.layout_of_ok hok
  apply BitVec.eq_of_getLsbD_eq
  intro i hi
  rw [hbSocOf_getLsbD hok, hbSocOf_getLsbD hok, hbits _ (by omega) (by omega)]

end Sys2Proof

namespace Sys2Proof.Machine

/-- EXTRACT runs on a descriptor in range (R60, R91). -/
theorem exec_extract {start stop : Nat} (h63 : start ≤ 63) (hle : stop ≤ start) (w : Word) (signed : Bool)
    (s : State) : exec (.extract w start stop signed) s = .next (latchField (extractField w start stop signed) s) :=
  if_pos ((descriptorOk_iff start stop).2 ⟨h63, hle⟩)

theorem exec_decHb (w : Word) (s : State) : exec (.decHb w) s = .next (decHb w s) := rfl

theorem exec_decDr (w : Word) (s : State) : exec (.decDr w) s = .next (decDr w s) := rfl

/-- A code is unreserved exactly when it is a named one (R98). -/
theorem stateReserved_eq_false (cfg : Config) (st : BitVec 3) : stateReserved cfg st = false ↔ NamedCode cfg st := by
  rw [← Bool.not_eq_true, stateReserved_eq_true, not_not]

/-- Settles O14: the field is a zero-extended value of the field's width, whose `sext` is its sign extension. -/
theorem extractGivesTheFieldExtended : Obligations.ExtractGivesTheFieldExtended := by
  intro s w start stop h63 hle
  have hfield := extractBits_eq_setWidth w h63 hle
  refine ⟨?_, ?_⟩
  · rw [exec_extract h63 hle, extractField, if_neg Bool.false_ne_true, hfield]
    rfl
  · rw [exec_extract h63 hle, extractField, if_pos rfl, hfield, fieldWidth, signExtendFrom_setWidth _ (by omega)]
    rfl

/-- Settles O17: each field is as wide as its output, so nothing of it is cut off. -/
theorem decHbGivesTheRawFields : Obligations.DecHbGivesTheRawFields := by
  intro s w hok
  rw [exec_decHb, decHb, hbStateOf_eq_ofNat hok, hbSocOf_eq_ofNat hok]
  rfl

/-- Settles O18, by the response field's one bit. -/
theorem decDrIsTheDesignatedBit : Obligations.DecDrIsTheDesignatedBit := by
  intro s w hok
  rw [exec_decDr, decDr, drOf_eq_ofBool hok]
  rfl

/-- Settles O19: each decoder depends on the word through its fields, and each field on its own range. -/
theorem decodingIgnoresOtherBits : Obligations.DecodingIgnoresOtherBits := by
  intro s w w' hok
  refine ⟨fun hbits => ?_, fun hbit => ?_⟩
  · have hstate := hbStateOf_congr hok fun b hlo hhi => hbits b (.inl ⟨hlo, hhi⟩)
    have hsoc := hbSocOf_congr hok fun b hlo hhi => hbits b (.inr ⟨hlo, hhi⟩)
    rw [exec_decHb, exec_decHb, decHb, decHb, hstate, hsoc]
  · rw [exec_decDr, exec_decDr, decDr, decDr, drOf_eq_ofBool hok, drOf_eq_ofBool hok, hbit]

/-- Settles O20, by `stateReserved`. -/
theorem classifyStateFlagsReservedCodes : Obligations.ClassifyStateFlagsReservedCodes :=
  fun s st => ⟨stateReserved s.cfg st, rfl, stateReserved_eq_false s.cfg st⟩

end Sys2Proof.Machine
end

section
/-! PROOFS. Routing by identifier (R92), and the receive phase (R97). -/

namespace Sys2Proof.Machine

/-- Settles O25: each row writes its own kind. -/
theorem routeRowsSetRxKind : Obligations.RouteRowsSetRxKind :=
  fun _ _ => ⟨rfl, rfl, rfl, rfl, rfl, rfl, rfl⟩

/-- The row an identifier selects writes the kind R92 gives the identifier. -/
theorem exec_decodeIdent (cfg : Config) (id : Nat) (s : State) :
    exec (decodeIdent cfg id) s = .next (routeTo (routeId cfg id) s) := by
  unfold decodeIdent routeId
  by_cases hhb : id = cfg.idBmsHeartbeat
  · rw [if_pos hhb, if_pos hhb]
    rfl
  by_cases hdr : id = cfg.idBmsDischargeResponse
  · rw [if_neg hhb, if_neg hhb, if_pos hdr, if_pos hdr]
    rfl
  rw [if_neg hhb, if_neg hhb, if_neg hdr, if_neg hdr]
  by_cases hunhandled : id = cfg.idBmsPackStatus ∨ id = cfg.idBmsCellTemps ∨ id = cfg.idBmsErrors
  · rw [if_pos hunhandled]
    split_ifs with hpack htemps herrors
    · rfl
    · rfl
    · rfl
    · exact absurd hunhandled (by simp [hpack, htemps, herrors])
  · obtain ⟨hpack, htemps, herrors⟩ := by simpa only [not_or] using hunhandled
    rw [if_neg hunhandled, if_neg hpack, if_neg htemps, if_neg herrors]
    rfl

/-- The row a received frame selects, or no frame, writes the kind `routeRx` gives. -/
theorem exec_decodeRx (cfg : Config) (rx : Option Frame) (s : State) :
    exec (decodeRx cfg rx) s = .next (routeTo (routeRx cfg rx) s) := by
  cases rx with
  | none => rfl
  | some f => exact exec_decodeIdent cfg f.id s

/-- Settles O26: the row and `routeRx` look at the identifier alone, by the same case analysis. -/
theorem routingIsByIdentifier : Obligations.RoutingIsByIdentifier := by
  intro s rx
  rw [exec_decodeRx, routeRx_eq_kindOf]
  rfl

/-- RX_PHASE changes no field but `CAN_RESET_REQ`, the RX buffer, the loaded word and the outputs, and of these not
the published `can_reset_req` (R97). -/
theorem rxPhase_frame {s : State} (ht : InputTyped s.cfg s.inp) :
    rxPhase s = { s with
      canResetReq := s.canResetReq || decide (s.inp.rxFault ≠ 0)
      rxBuf := (rxPhase s).rxBuf
      latch := { s.latch with word := (rxPhase s).latch.word }
      out := { (rxPhase s).out with canResetReq := s.out.canResetReq } } := by
  rw [rxPhase_eq]
  split
  · rename_i f hrx _
    obtain ⟨hlen, -⟩ := ht.1 f hrx
    rw [rxHeartbeat_eq f _ hlen]
    rfl
  · rename_i f hrx _
    obtain ⟨hlen, -⟩ := ht.1 f hrx
    rw [rxDischargeResponse_eq f _ hlen]
    rfl
  · rfl

/-- A frame of a decoded kind is received and loaded (R97). -/
theorem rxPhase_loaded {s : State} (ht : InputTyped s.cfg s.inp) {f : Frame} (hrx : s.inp.rx = some f)
    (hkind : kindOf s.cfg (some f) = .bmsHeartbeat ∨ kindOf s.cfg (some f) = .bmsDischargeResponse) :
    (rxPhase s).latch.word = framePayload f ∧ (rxPhase s).rxBuf = s.rxBuf.receive f := by
  obtain ⟨hlen, -⟩ := ht.1 f hrx
  rw [rxPhase_eq, hrx]
  obtain hk | hk := hkind
  · simp only [hk, rxHeartbeat_eq f _ hlen, rxRouted, and_self]
  · simp only [hk, rxDischargeResponse_eq f _ hlen, rxRouted, and_self]

/-- A frame of another kind, or none, is not loaded (log entry 26). -/
theorem rxPhase_notLoaded {s : State} (hhb : kindOf s.cfg s.inp.rx ≠ .bmsHeartbeat)
    (hdr : kindOf s.cfg s.inp.rx ≠ .bmsDischargeResponse) :
    (rxPhase s).latch.word = s.latch.word ∧ (rxPhase s).rxBuf = s.rxBuf := by
  rw [rxPhase_eq]
  split
  · contradiction
  · contradiction
  · exact ⟨rfl, rfl⟩

/-- Settles O27: `rxPhase_frame` is the equation, `rxPhase_fields` and `rxPhase_decoded` the outputs, and
`rxPhase_loaded` and `rxPhase_notLoaded` the word and the RX buffer. -/
theorem rxPhaseReceivesRoutesDecodes : Obligations.RxPhaseReceivesRoutesDecodes := by
  intro s _ ht
  obtain ⟨-, -, -, -, -, -, -, -, -, htx, hfire, hkind, hdiag⟩ := rxPhase_fields s ht
  obtain ⟨hheartbeat, hresponse, hcleared⟩ := rxPhase_decoded s ht
  refine ⟨(rxPhase s).rxBuf, (rxPhase s).latch.word, { (rxPhase s).out with canResetReq := s.out.canResetReq }, ?_,
    htx, hfire, rfl, hkind, hdiag, hheartbeat, hresponse, fun f hrx hdecoded => ?_, fun hhb hdr => ?_⟩
  · exact (withTypedInput_of_typed rxPhase ht).trans (congrArg Host.Outcome.next (rxPhase_frame ht))
  · obtain ⟨hword, hbuf⟩ := rxPhase_loaded ht hrx hdecoded
    rw [hbuf]
    refine ⟨hword, rfl, fun k hk => ?_, fun k hk => ?_⟩
    · rw [Buffer.receive_read, if_pos hk]
    · rw [Buffer.receive_read, if_neg (by omega)]
  · obtain ⟨hword, hbuf⟩ := rxPhase_notLoaded hhb hdr
    obtain ⟨hstate, hsoc, hreserved, hdrz⟩ := hcleared hhb hdr
    exact ⟨hstate, hsoc, hreserved, hdrz, hword, hbuf⟩

end Sys2Proof.Machine
end

section
/-! PROOFS. Fields written and read back (R110), the bytes STOREW leaves (R111), the command bytes (R112, R113), the
BMS packers (R114, R115) and the round trip through words and frames (R116). -/

namespace Sys2Proof

/-- Bit `b` of a field's mask says whether `b` is in the field's range (R12). -/
theorem fieldmask_getLsbD_of_lt {start stop b : Nat} (hle : stop ≤ start) (hb : b < 64) :
    (fieldmask start stop).getLsbD b = decide (stop ≤ b ∧ b ≤ start) := by
  rw [fieldmask_getLsbD _ _ _ hle, decide_eq_true hb, Bool.true_and, Bool.decide_and]

/-- Extraction, sign-extended or not, reads the bits of the field's range only (R12). -/
theorem extractField_congr {w w' : Word} {start stop : Nat} (h63 : start ≤ 63) (hle : stop ≤ start) (signed : Bool)
    (hbits : ∀ b, stop ≤ b → b ≤ start → w.getLsbD b = w'.getLsbD b) :
    extractField w start stop signed = extractField w' start stop signed := by
  have hfield : extractBits w start stop = extractBits w' start stop := by
    apply BitVec.eq_of_getLsbD_eq
    intro i _
    rw [extractBits_getLsbD _ _ _ _ hle h63, extractBits_getLsbD _ _ _ _ hle h63]
    by_cases hin : i ≤ start - stop
    · rw [hbits (stop + i) (by omega) (by omega)]
    · simp [hin]
  rw [extractField, extractField, hfield]

/-- Extracting the field just written gives the low bits of the value, as many as the field is wide (R110). -/
theorem extractBits_insertBits (w v : Word) {start stop : Nat} (h63 : start ≤ 63) (hle : stop ≤ start) :
    extractBits (insertBits w start stop v) start stop = v &&& ones (fieldWidth start stop) := by
  apply BitVec.eq_of_getLsbD_eq
  intro i hi
  rw [extractBits_getLsbD _ _ _ _ hle h63, BitVec.getLsbD_and, ones_getLsbD, fieldWidth]
  by_cases hin : i ≤ start - stop
  · rw [insertBits_getLsbD _ _ _ _ _ hle (by omega), if_pos (by omega), Nat.add_sub_cancel_left]
    simp [hin, hi, Nat.lt_succ_of_le hin]
  · have hout : ¬ i < start - stop + 1 := by omega
    simp [hin, hout]

/-- A value below `2 ^ n` has no bit above its low `n`. -/
theorem and_ones_of_lt {v : Word} {n : Nat} (hn : n ≤ 64) (hv : v.toNat < 2 ^ n) : v &&& ones n = v := by
  have hpow : 2 ^ n ≤ 2 ^ 64 := Nat.pow_le_pow_right (by decide) hn
  have hones : (ones n).toNat = 2 ^ n - 1 := by
    rw [ones, BitVec.toNat_ofNat, Nat.mod_eq_of_lt (by omega)]
  apply BitVec.eq_of_toNat_eq
  rw [BitVec.toNat_and, hones, Nat.and_two_pow_sub_one_eq_mod, Nat.mod_eq_of_lt hv]

/-- A field that shares no bit with the one written reads as before (R110). -/
theorem extractField_insertBits_of_disjoint (w v : Word) {start stop start' stop' : Nat} (hle : stop ≤ start)
    (h63' : start' ≤ 63) (hle' : stop' ≤ start') (hsep : start < stop' ∨ start' < stop) (signed : Bool) :
    extractField (insertBits w start stop v) start' stop' signed = extractField w start' stop' signed := by
  refine extractField_congr h63' hle' signed fun b hlo hhi => ?_
  rw [insertBits_getLsbD _ _ _ _ _ hle (by omega), if_neg (by omega)]

/-- Bytes of different tags differ in exactly bit 7 (R112). -/
theorem commandByte_xor_of_ne {a b : BitVec 1} (h : a ≠ b) : commandByte a ^^^ commandByte b = 0x80 := by
  revert a b
  decide

/-- The `state` field of a packed heartbeat (R116). -/
theorem hbStateOf_packHeartbeat {cfg : Config} (hok : cfg.ok = true) (st : BitVec 3) (soc : BitVec 10) :
    hbStateOf cfg (packHeartbeat cfg st soc) = st := by
  obtain ⟨h63, hwidth, -⟩ := Config.layout_of_ok hok
  apply BitVec.eq_of_getLsbD_eq
  intro i hi
  rw [hbStateOf_getLsbD hok, packHeartbeat_getLsbD hok _ _ _ (by omega), if_pos (by omega), Nat.add_sub_cancel_left,
    decide_eq_true hi, Bool.true_and]

/-- The `soc_percentage` field of a packed heartbeat: the two ranges share no bit, so the `state` field does not hide
it (R116). -/
theorem hbSocOf_packHeartbeat {cfg : Config} (hok : cfg.ok = true) (st : BitVec 3) (soc : BitVec 10) :
    hbSocOf cfg (packHeartbeat cfg st soc) = soc := by
  obtain ⟨-, hstate, h63, hwidth, -, -, hsep⟩ := Config.layout_of_ok hok
  apply BitVec.eq_of_getLsbD_eq
  intro i hi
  rw [hbSocOf_getLsbD hok, packHeartbeat_getLsbD hok _ _ _ (by omega), if_neg (by omega), if_pos (by omega),
    Nat.add_sub_cancel_left, decide_eq_true hi, Bool.true_and]

/-- The bit of a packed discharge response (R116). -/
theorem drOf_packDischargeResponse {cfg : Config} (hok : cfg.ok = true) (r : BitVec 1) :
    drOf cfg (packDischargeResponse cfg r) = r := by
  obtain ⟨-, -, -, -, h63, -⟩ := Config.layout_of_ok hok
  apply BitVec.eq_of_getLsbD_eq
  intro i hi
  obtain rfl : i = 0 := by omega
  rw [drOf_getLsbD hok, packDischargeResponse_getLsbD hok _ _ (by omega)]
  simp

/-- Packing the two fields of a word keeps the bits of both ranges and clears the rest (R116). -/
theorem packHeartbeat_hbStateOf_hbSocOf {cfg : Config} (hok : cfg.ok = true) (w : Word) :
    packHeartbeat cfg (hbStateOf cfg w) (hbSocOf cfg w) =
      w &&& (fieldmask cfg.hbStateStart cfg.hbStateEnd ||| fieldmask cfg.hbSocStart cfg.hbSocEnd) := by
  obtain ⟨-, hstate, -, hsoc, -⟩ := Config.layout_of_ok hok
  apply BitVec.eq_of_getLsbD_eq
  intro b hb
  rw [packHeartbeat_getLsbD hok _ _ _ hb, hbStateOf_getLsbD hok, hbSocOf_getLsbD hok, BitVec.getLsbD_and,
    BitVec.getLsbD_or, fieldmask_getLsbD_of_lt (by omega) hb, fieldmask_getLsbD_of_lt (by omega) hb]
  by_cases hinState : cfg.hbStateEnd ≤ b ∧ b ≤ cfg.hbStateStart
  · have hoff : b - cfg.hbStateEnd < 3 := by omega
    simp [hinState, hoff]
  by_cases hinSoc : cfg.hbSocEnd ≤ b ∧ b ≤ cfg.hbSocStart
  · have hoff : b - cfg.hbSocEnd < 10 := by omega
    simp [hinState, hinSoc, hoff]
  · rw [if_neg hinState, if_neg hinSoc, decide_eq_false hinState, decide_eq_false hinSoc, Bool.or_false,
      Bool.and_false]

end Sys2Proof

namespace Sys2Proof.Machine

/-- INSERT runs on a descriptor in range (R60, R110). -/
theorem exec_insert {start stop : Nat} (h63 : start ≤ 63) (hle : stop ≤ start) (w v : Word) (s : State) :
    exec (.insert w start stop v) s = .next (latchWord (insertBits w start stop v) s) :=
  if_pos ((descriptorOk_iff start stop).2 ⟨h63, hle⟩)

theorem exec_encHbcmdStandby (s : State) :
    exec .encHbcmdStandby s = .next (latchByte (commandByte s.cfg.tagHbStandby) s) := rfl

theorem exec_encHbcmdDischarge (s : State) :
    exec .encHbcmdDischarge s = .next (latchByte (commandByte s.cfg.tagHbDischarge) s) := rfl

theorem exec_encDreq (s : State) : exec .encDreq s = .next (latchByte (commandByte s.cfg.tagDreqEnter) s) := rfl

/-- A word stored as a frame of all eight bytes is loaded back whole (R43). -/
theorem loadWord_storeWord_eight (b : Buffer) (w : Word) : loadWord (storeWord b w 8).mem 8 = w := by
  have hmask : ones (8 * 8) <<< (64 - 8 * 8) = BitVec.allOnes 64 := by decide
  rw [loadWord_storeWord b w (le_refl 8), hmask, BitVec.and_allOnes]

/-- Settles O12, by what the rounds of STOREW's loop leave at each index (`storeWord_read`). -/
theorem storewWritesTheTopBytes : Obligations.StorewWritesTheTopBytes := by
  intro s w len hlen
  refine ⟨(storeWord s.txBuf w len).mem, exec_storew hlen w s, fun k hk => ?_, fun k hk => ?_⟩
  · rw [storeWord_read, if_pos hk, byteOf]
  · rw [storeWord_read, if_neg (by omega)]

/-- Settles O15, by the bits of `insertBits`. -/
theorem insertWritesTheFieldOnly : Obligations.InsertWritesTheFieldOnly :=
  fun s w v start stop h63 hle =>
    ⟨insertBits w start stop v, exec_insert h63 hle w v s, fun b hb => insertBits_getLsbD w v start stop b hle hb⟩

/-- Settles O16: the field written holds the value's low bits, all of them for a value that fits, and a disjoint field
has none of the bits written. -/
theorem extractOfInsert : Obligations.ExtractOfInsert := by
  intro w v start stop start' stop' h63 hle h63' hle'
  refine ⟨fun hv => ?_, fun hsep signed => extractField_insertBits_of_disjoint w v hle h63' hle' hsep signed⟩
  rw [extractField, if_neg Bool.false_ne_true, extractBits_insertBits w v h63 hle, fieldWidth,
    and_ones_of_lt (by omega) hv]

/-- Settles O21: each encoder latches the command byte of its tag. -/
theorem commandBytesAreTheTagAtBit7 : Obligations.CommandBytesAreTheTagAtBit7 := by
  intro s
  rw [exec_encHbcmdStandby, exec_encHbcmdDischarge, exec_encDreq]
  simp only [commandByte_eq]
  exact ⟨rfl, rfl, rfl⟩

/-- Settles O22: the check keeps the two tags distinct (R8). -/
theorem heartbeatBytesDifferInBit7Only : Obligations.HeartbeatBytesDifferInBit7Only :=
  fun s hok => ⟨_, _, exec_encHbcmdStandby s, exec_encHbcmdDischarge s,
    commandByte_xor_of_ne (Config.tags_of_ok hok)⟩

/-- Settles O23, by the bits of the two packed words. -/
theorem packersSetTheFieldsOnly : Obligations.PackersSetTheFieldsOnly :=
  fun s st soc r hok => ⟨packHeartbeat s.cfg st soc, packDischargeResponse s.cfg r, rfl, rfl,
    packHeartbeat_getLsbD hok st soc, packDischargeResponse_getLsbD hok r⟩

/-- Settles O24: the frame gives the packed word back whole, and each field is read from the bits it was packed to. -/
theorem roundTripLaw : Obligations.RoundTripLaw := by
  intro cfg hok
  have hword (st : BitVec 3) (soc : BitVec 10) :
      hbStateOf cfg (packHeartbeat cfg st soc) = st ∧ hbSocOf cfg (packHeartbeat cfg st soc) = soc :=
    ⟨hbStateOf_packHeartbeat hok st soc, hbSocOf_packHeartbeat hok st soc⟩
  refine ⟨hword, fun st soc b => ?_, drOf_packDischargeResponse hok, packHeartbeat_hbStateOf_hbSocOf hok⟩
  rw [loadWord_storeWord_eight]
  exact hword st soc

end Sys2Proof.Machine
end

section
/-! PROOFS. The rows of the command tables, called by themselves: the discharge request (R132), the two levels of
keys (R130 to R139) and RENDER (R140). -/

namespace Sys2Proof.Machine

theorem exec_cmdTopKeyDreq (s : State) : exec .cmdTopKeyDreq s = .next (dischargeRequest s) := rfl

theorem exec_cmdPhase3 (s : State) : exec .cmdPhase3 s = .next (cmdPhase3 s) := rfl

theorem exec_cmdHbcfg (c : Byte) (s : State) : exec (.cmdHbcfg c) s = .next (cmdHbcfg c s) := rfl

theorem exec_render (s : State) : exec .render s = .next (render s) := rfl

theorem cmdPhase3_of_key_none {s : State} (hkey : s.inp.key = none) : cmdPhase3 s = s := by
  rw [cmdPhase3, hkey]

/-- A character at the top level runs its row of the table (R130). -/
theorem cmdPhase3_of_key {s : State} {c : Byte} (hkey : s.inp.key = some c) : cmdPhase3 s = cmdTop c s := by
  rw [cmdPhase3, hkey]

theorem cmdTop_keyV (s : State) : cmdTop keyV s = openSubmenu s := if_pos rfl

theorem cmdTop_keyDreq {s : State} (hv : s.cfg.keyDreq ≠ keyV) : cmdTop s.cfg.keyDreq s = dischargeRequest s := by
  rw [cmdTop, if_neg hv, if_pos rfl]

theorem cmdTop_other {s : State} {c : Byte} (hv : c ≠ keyV) (hdreq : c ≠ s.cfg.keyDreq) :
    cmdTop c s = unrecognised .top c s := by
  rw [cmdTop, if_neg hv, if_neg hdreq]

/-- STANDBY renders to its tag shifted to bit 7 (R67, R140). -/
theorem renderByte_standby (cfg : Config) :
    renderByte cfg .standby = some (cfg.tagHbStandby.setWidth 8 <<< 7) :=
  congrArg some (commandByte_eq cfg.tagHbStandby)

/-- DISCHARGE renders to its tag shifted to bit 7 (R67, R140). -/
theorem renderByte_discharge (cfg : Config) :
    renderByte cfg .discharge = some (cfg.tagHbDischarge.setWidth 8 <<< 7) :=
  congrArg some (commandByte_eq cfg.tagHbDischarge)

/-- Settles O29: the whole effect of the discharge request, and the bytes STOREW of one byte leaves. -/
theorem dischargeRequestIsSentOnce : Obligations.DischargeRequestIsSentOnce := by
  intro s
  have hbyte : dreqByte s.cfg = s.cfg.tagDreqEnter.setWidth 8 <<< 7 := commandByte_eq s.cfg.tagDreqEnter
  refine ⟨storeWord s.txBuf (byteAt (dreqByte s.cfg) 0) 1, ?_, rfl, fun k hk => ?_, fun k hk => ?_⟩
  · rw [exec_cmdTopKeyDreq, dischargeRequest_eq, ← hbyte]
  · exact storeByte_tagFrame s.txBuf s.cfg.idVcuDischargeRequest s.cfg.tagDreqEnter k hk
  · rw [storeByte_read, if_neg (by omega), if_neg (by omega)]

/-- Settles O28: each row is one field update, or none. -/
theorem topLevelRows : Obligations.TopLevelRows := fun _ _ => ⟨rfl, rfl, rfl, rfl⟩

/-- Settles O30: the three modes and the event are one field update each, with `CMD_PHASE` returned to TOP. -/
theorem subMenuRows : Obligations.SubMenuRows := fun _ _ => ⟨rfl, rfl, rfl, rfl⟩

/-- Settles O31: the three excluding cases of a top-level character, and CMD_HBCFG's whole effect. -/
theorem charactersSelectTheirRows : Obligations.CharactersSelectTheirRows := by
  intro s c
  refine ⟨⟨_, exec_cmdPhase3 s⟩, fun hkey => ?_, fun hkey hv => ?_, fun hkey hv hdreq => ?_,
    fun hkey hv hdreq => ?_, ?_⟩
  · rw [exec_cmdPhase3, cmdPhase3_of_key_none hkey]
  · subst hv
    rw [exec_cmdPhase3, cmdPhase3_of_key hkey]
    exact congrArg Host.Outcome.next (cmdTop_keyV s)
  · subst hdreq
    rw [exec_cmdPhase3, cmdPhase3_of_key hkey, cmdTop_keyDreq hv, exec_cmdTopKeyDreq]
  · rw [exec_cmdPhase3, cmdPhase3_of_key hkey, cmdTop_other hv hdreq]
    rfl
  · rw [exec_cmdHbcfg, cmdHbcfg_eq]

/-- Settles O32: RENDER latches the rendered byte of `VCU_STATE` and nothing else, mode by mode. -/
theorem renderGivesTheModesByte : Obligations.RenderGivesTheModesByte := by
  intro s
  rw [exec_render, render, State.withLatch]
  cases s.vcuState with
  | standby => rw [renderByte_standby]
  | discharge => rw [renderByte_discharge]
  | none => rfl

end Sys2Proof.Machine
end

section
/-! PROOFS. What a step of the block does to the two command registers (R141, R142): each step as a function, and
`VCU_STATE` and `CMD_PHASE` after it. -/

namespace Sys2Proof.Machine

/-- The step of the block `CMD_PHASE` selects, where its inputs are typed (R161; `exec_selectStep`). -/
def blockStep (s : State) : State :=
  match s.cmdPhase with
  | .top => passStep s
  | .hbConfig => resumeStep s

theorem blockStep_of_top {s : State} (hp : s.cmdPhase = .top) : blockStep s = passStep s := by
  rw [blockStep, hp]

theorem blockStep_of_hbConfig {s : State} (hp : s.cmdPhase = .hbConfig) : blockStep s = resumeStep s := by
  rw [blockStep, hp]

/-- The selected step completes on typed inputs. -/
theorem exec_selectStep {s : State} (ht : InputTyped s.cfg s.inp) :
    exec (selectStep s.cmdPhase) s = .next (blockStep s) := by
  cases hp : s.cmdPhase with
  | top => rw [blockStep_of_top hp, ← exec_pass hp ht]; rfl
  | hbConfig => rw [blockStep_of_hbConfig hp, ← exec_passResume hp ht]; rfl

/-- The selected step answers a next state on typed inputs only (R196). -/
theorem exec_selectStep_next {s t : State} (h : exec (selectStep s.cmdPhase) s = .next t) :
    InputTyped s.cfg s.inp ∧ t = blockStep s := by
  cases hp : s.cmdPhase with
  | top =>
    rw [hp] at h
    obtain ⟨-, ht, rfl⟩ := exec_pass_next h
    exact ⟨ht, (blockStep_of_top hp).symm⟩
  | hbConfig =>
    rw [hp] at h
    obtain ⟨-, ht, rfl⟩ := exec_passResume_next h
    exact ⟨ht, (blockStep_of_hbConfig hp).symm⟩

/-- Phases 1 and 2 leave the line-up and transmit nothing (R97, R157, R186). -/
theorem phases12_stim_tx {s : State} (ht : InputTyped s.cfg s.inp) :
    (phases12 s).stim = s.stim ∧ (phases12 s).out.tx = [] := by
  rw [phases12, acknowledge_beginStep]
  obtain ⟨-, -, -, -, hstim, -, -, -, -, htx, -⟩ := rxPhase_fields { s with
    canResetReq := s.canResetReq && !s.inp.canResetAck
    rxBuf := Buffer.empty, txBuf := Buffer.empty, latch := Latches.clear, out := Output.clear } ht
  exact ⟨hstim, htx⟩

/-- What phases 1 to 3 leave in `CMD_PHASE` and in the transmitted frames: the key's row of the top level, on a
record in which nothing has been transmitted (R130 to R133, R157). -/
theorem phases123_cmdPhase_tx {s : State} (hok : s.cfg.ok = true) (ht : InputTyped s.cfg s.inp) :
    (phases123 s).cmdPhase = (if s.inp.key = some 0x76 then .hbConfig else s.cmdPhase) ∧
    (phases123 s).out.tx = if s.inp.key = some s.cfg.keyDreq then [dreqFrame s.cfg] else [] := by
  obtain ⟨-, -, hphase, hcfg, hinp⟩ := phases12_frame ht
  obtain ⟨-, htx⟩ := phases12_stim_tx ht
  obtain ⟨-, -, hphase', -, -, -, -, -, -, htx', -⟩ := cmdPhase3_fields (phases12 s) (hcfg ▸ hok)
  rw [hcfg, hinp] at htx'
  rw [hinp, hphase] at hphase'
  exact ⟨hphase', by rw [phases123_eq, htx', htx, List.nil_append]⟩

/-- Phase 4 runs the scheduler or does nothing (R157). -/
theorem phase4_eq_or (s : State) : phase4 s = schedule s ∨ phase4 s = s := by
  rw [phase4]
  split
  · exact .inl rfl
  · exact .inr rfl

theorem phase4_cmdPhase (s : State) : (phase4 s).cmdPhase = s.cmdPhase := by
  obtain h | h := phase4_eq_or s
  · obtain ⟨-, hphase, -⟩ := schedule_fields s
    rw [h, hphase]
  · rw [h]

/-- A PASS leaves TOP exactly for `'v'` (R142). -/
theorem passStep_cmdPhase {s : State} (hok : s.cfg.ok = true) (ht : InputTyped s.cfg s.inp)
    (hp : s.cmdPhase = .top) : (passStep s).cmdPhase = phaseAfterKey .top s.inp.key := by
  obtain ⟨hphase, -⟩ := phases123_cmdPhase_tx hok ht
  rw [hp] at hphase
  exact (phase4_cmdPhase _).trans hphase

theorem resumeStep_of_key_none {s : State} (hkey : s.inp.key = none) :
    resumeStep s = publish (beginStep s) := by
  rw [resumeStep, hkey]

theorem resumeStep_of_key {s : State} {c : Byte} (hkey : s.inp.key = some c) :
    resumeStep s = publish (schedule (cmdHbcfg c (beginStep s))) := by
  rw [resumeStep, hkey]

/-- What the second key leaves at the start of phase 4 (R134, R158). -/
theorem cmdHbcfg_beginStep_fields (c : Byte) (s : State) :
    (cmdHbcfg c (beginStep s)).lastFireTick = s.lastFireTick ∧
    (cmdHbcfg c (beginStep s)).vcuState = (modeOfKey c).getD s.vcuState ∧
    (cmdHbcfg c (beginStep s)).cmdPhase = .top ∧ (cmdHbcfg c (beginStep s)).cfg = s.cfg ∧
    (cmdHbcfg c (beginStep s)).stim = s.stim ∧ (cmdHbcfg c (beginStep s)).out.tx = [] := by
  rw [cmdHbcfg_eq]
  exact ⟨rfl, rfl, rfl, rfl, rfl, rfl⟩

/-- A PASS_RESUME stays at HB_CONFIG exactly where no character came (R142). -/
theorem resumeStep_cmdPhase {s : State} (hp : s.cmdPhase = .hbConfig) :
    (resumeStep s).cmdPhase = phaseAfterKey .hbConfig s.inp.key := by
  cases hkey : s.inp.key with
  | none => rw [resumeStep_of_key_none hkey]; exact hp
  | some c =>
    obtain ⟨-, -, htop, -⟩ := cmdHbcfg_beginStep_fields c s
    obtain ⟨-, hphase, -⟩ := schedule_fields (cmdHbcfg c (beginStep s))
    rw [resumeStep_of_key hkey]
    exact hphase.trans htop

/-- A PASS_RESUME writes the mode of its key, where it has a key that selects one (R142). -/
theorem resumeStep_vcuState (s : State) :
    (resumeStep s).vcuState = (s.inp.key.bind modeOfKey).getD s.vcuState := by
  cases hkey : s.inp.key with
  | none => rw [resumeStep_of_key_none hkey]; rfl
  | some c =>
    obtain ⟨-, hselected, -⟩ := cmdHbcfg_beginStep_fields c s
    obtain ⟨hmode, -⟩ := schedule_fields (cmdHbcfg c (beginStep s))
    rw [resumeStep_of_key hkey]
    exact hmode.trans hselected

/-- Settles O33: the two registers after each step of the block, row by row. -/
theorem commandTransitionTable : Obligations.CommandTransitionTable := by
  intro s t hok
  refine ⟨fun h => ?_, fun h => ?_⟩
  · obtain ⟨hp, ht, rfl⟩ := exec_pass_next h
    exact ⟨passStep_vcuState ht, passStep_cmdPhase hok ht hp⟩
  · obtain ⟨hp, -, rfl⟩ := exec_passResume_next h
    have hphase := resumeStep_cmdPhase hp
    have hmode := resumeStep_vcuState s
    cases hkey : s.inp.key with
    | none => rw [hkey] at hphase hmode; exact ⟨hphase, hmode⟩
    | some c => rw [hkey] at hphase hmode; exact ⟨hphase, hmode⟩

/-- A step of the block that changes `VCU_STATE` took the key of the new mode at HB_CONFIG (R141). -/
theorem blockStep_changes_vcuState {s : State} (ht : InputTyped s.cfg s.inp)
    (h : (blockStep s).vcuState ≠ s.vcuState) :
    s.cmdPhase = .hbConfig ∧ ∃ c, s.inp.key = some c ∧ modeOfKey c = some (blockStep s).vcuState := by
  cases hp : s.cmdPhase with
  | top => exact absurd (by rw [blockStep_of_top hp, passStep_vcuState ht]) h
  | hbConfig =>
    rw [blockStep_of_hbConfig hp, resumeStep_vcuState] at h ⊢
    refine ⟨rfl, ?_⟩
    cases hselected : s.inp.key.bind modeOfKey with
    | none => exact absurd (by rw [hselected]; rfl) h
    | some mode => exact Option.bind_eq_some_iff.1 hselected

/-- Settles O52: an iteration runs the selected step, which changes the mode by a second key only, and the reset
event runs RESET. -/
theorem onlyTheSecondKeyChangesTheMode : Obligations.OnlyTheSecondKeyChangesTheMode := by
  intro s t e he hstep hchange
  obtain ⟨hok, -⟩ := step_next hstep
  cases e with
  | iterate inp =>
    rw [step_of_iterate hok he] at hstep
    obtain ⟨ht, rfl⟩ := exec_selectStep_next (s := (takeEvent s).withInp inp) hstep
    obtain ⟨hp, c, hkey, hmode⟩ := blockStep_changes_vcuState ht hchange
    exact .inr ⟨inp, c, rfl, hp, hkey, hmode⟩
  | reset =>
    rw [step_of_reset hok he] at hstep
    obtain rfl := Host.Outcome.next.inj hstep
    exact .inl ⟨rfl, rfl⟩

end Sys2Proof.Machine
end

section
/-! PROOFS. Runs of lined-up loop iterations, one step of the block each; and NONE along them (R137, R153). -/

namespace Sys2Proof.Machine

theorem schedule_stim (s : State) : (schedule s).stim = s.stim := by
  obtain ⟨-, -, -, hstim, -⟩ := schedule_fields s
  exact hstim

/-- A PASS leaves the line-up as it finds it. -/
theorem passStep_stim {s : State} (ht : InputTyped s.cfg s.inp) : (passStep s).stim = s.stim := by
  obtain ⟨hstim, -⟩ := phases12_stim_tx ht
  obtain ⟨-, -, -, -, hstim', -⟩ := cmdPhase3_frame (phases12 s)
  have hphase4 : (phase4 (phases123 s)).stim = (phases123 s).stim := by
    obtain h | h := phase4_eq_or (phases123 s)
    · rw [h, schedule_stim]
    · rw [h]
  exact hphase4.trans (hstim'.trans hstim)

/-- A PASS_RESUME leaves the line-up as it finds it. -/
theorem resumeStep_stim (s : State) : (resumeStep s).stim = s.stim := by
  cases hkey : s.inp.key with
  | none => rw [resumeStep_of_key_none hkey]; rfl
  | some c =>
    obtain ⟨-, -, -, -, hstim, -⟩ := cmdHbcfg_beginStep_fields c s
    rw [resumeStep_of_key hkey]
    exact (schedule_stim _).trans hstim

theorem blockStep_stim {s : State} (ht : InputTyped s.cfg s.inp) : (blockStep s).stim = s.stim := by
  cases hp : s.cmdPhase with
  | top => rw [blockStep_of_top hp, passStep_stim ht]
  | hbConfig => rw [blockStep_of_hbConfig hp, resumeStep_stim]

theorem blockStep_cfg {s : State} (ht : InputTyped s.cfg s.inp) : (blockStep s).cfg = s.cfg :=
  exec_cfg (exec_selectStep ht)

theorem withIterations_of_stim {s : State} {inputs : List Input}
    (h : s.stim = inputs.map fun inp => .loop (.iterate inp)) : withIterations s inputs = s := by
  rw [withIterations, ← h]

/-- The state after `s` takes one iteration with the inputs `inp`, the iterations `rest` lined up after it. -/
def iterateOnce (s : State) (inp : Input) (rest : List Input) : State :=
  blockStep ((withIterations s rest).withInp inp)

/-- A lined-up iteration is one step of the block, and the iterations after it stay lined up. -/
theorem step_withIterations {s : State} {inp : Input} (rest : List Input) (hok : s.cfg.ok = true)
    (ht : InputTyped s.cfg inp) :
    step (withIterations s (inp :: rest)) = .next (withIterations (iterateOnce s inp rest) rest) := by
  have hrest : withIterations (iterateOnce s inp rest) rest = iterateOnce s inp rest :=
    withIterations_of_stim (blockStep_stim (s := (withIterations s rest).withInp inp) ht)
  have htake : takeEvent (withIterations s (inp :: rest)) = withIterations s rest := by
    simp [takeEvent, withIterations]
  rw [step_of_iterate (s := withIterations s (inp :: rest)) hok rfl, htake, hrest]
  exact exec_selectStep (s := (withIterations s rest).withInp inp) ht

/-- A run of lined-up iterations, unfolded at its first. -/
theorem run_withIterations_cons {s : State} {inp : Input} (rest : List Input) (n : Nat) (hok : s.cfg.ok = true)
    (ht : InputTyped s.cfg inp) :
    core.run (n + 1) (withIterations s (inp :: rest)) =
      core.run n (withIterations (iterateOnce s inp rest) rest) := by
  have hstep : core.step (withIterations s (inp :: rest)) = .next (withIterations (iterateOnce s inp rest) rest) :=
    step_withIterations rest hok ht
  simp only [Host.Core.run, hstep]

/-- Phase 4 in NONE sends no frame and leaves `LAST_FIRE_TICK`, fired or not (R153). -/
theorem schedule_in_none {s : State} (hd13 : s.cfg.updateTickInNone = false) (hmode : s.vcuState = .none) :
    (schedule s).lastFireTick = s.lastFireTick ∧ (schedule s).out.tx = s.out.tx := by
  obtain ⟨-, -, -, -, -, -, -, htick, -, -, htx, -⟩ := schedule_fields s
  rw [htick, htx]
  simp [hmode, hd13, heartbeatFrames]

/-- A PASS in NONE keeps `LAST_FIRE_TICK`, and all it transmits is the discharge request of `KEY_DREQ`. -/
theorem passStep_in_none {s : State} (hok : s.cfg.ok = true) (ht : InputTyped s.cfg s.inp)
    (hd13 : s.cfg.updateTickInNone = false) (hmode : s.vcuState = .none) :
    (passStep s).lastFireTick = s.lastFireTick ∧
    (passStep s).out.tx = if s.inp.key = some s.cfg.keyDreq then [dreqFrame s.cfg] else [] := by
  obtain ⟨htick, hmode', hcfg, -⟩ := phases123_frame ht
  obtain ⟨-, htx⟩ := phases123_cmdPhase_tx hok ht
  obtain ⟨hsched, hsched'⟩ := schedule_in_none (s := phases123 s) (hcfg ▸ hd13) (hmode'.trans hmode)
  have hphase4 : (phase4 (phases123 s)).lastFireTick = (phases123 s).lastFireTick ∧
      (phase4 (phases123 s)).out.tx = (phases123 s).out.tx := by
    obtain h | h := phase4_eq_or (phases123 s)
    · rw [h]; exact ⟨hsched, hsched'⟩
    · rw [h]; exact ⟨rfl, rfl⟩
  obtain ⟨htick', htx'⟩ := hphase4
  exact ⟨htick'.trans htick, htx'.trans htx⟩

/-- A PASS_RESUME that leaves NONE selected keeps `LAST_FIRE_TICK` and transmits nothing. -/
theorem resumeStep_in_none {s : State} (hd13 : s.cfg.updateTickInNone = false)
    (hmode : (resumeStep s).vcuState = .none) :
    (resumeStep s).lastFireTick = s.lastFireTick ∧ (resumeStep s).out.tx = [] := by
  cases hkey : s.inp.key with
  | none => rw [resumeStep_of_key_none hkey]; exact ⟨rfl, rfl⟩
  | some c =>
    rw [resumeStep_vcuState, hkey] at hmode
    obtain ⟨htick, hselected, -, hcfg, -, htx⟩ := cmdHbcfg_beginStep_fields c s
    obtain ⟨htick', htx'⟩ := schedule_in_none (s := cmdHbcfg c (beginStep s)) (hcfg ▸ hd13) (hselected.trans hmode)
    rw [resumeStep_of_key hkey]
    exact ⟨htick'.trans htick, htx'.trans htx⟩

/-- A step of the block whose input leaves NONE selected keeps NONE and `LAST_FIRE_TICK`, and sends no heartbeat. -/
theorem blockStep_in_none {s : State} (hok : s.cfg.ok = true) (ht : InputTyped s.cfg s.inp)
    (hd13 : s.cfg.updateTickInNone = false) (hmode : s.vcuState = .none)
    (hleaves : s.cmdPhase = .hbConfig → ∀ c, s.inp.key = some c → (modeOfKey c).getD .none = .none) :
    (blockStep s).lastFireTick = s.lastFireTick ∧ (blockStep s).vcuState = .none ∧
    (blockStep s).cmdPhase = phaseAfterKey s.cmdPhase s.inp.key ∧
    (blockStep s).out.tx =
      if s.cmdPhase = .top ∧ s.inp.key = some s.cfg.keyDreq then [dreqFrame s.cfg] else [] := by
  cases hp : s.cmdPhase with
  | top =>
    obtain ⟨htick, htx⟩ := passStep_in_none hok ht hd13 hmode
    rw [blockStep_of_top hp]
    exact ⟨htick, (passStep_vcuState ht).trans hmode, passStep_cmdPhase hok ht hp, by simp [htx]⟩
  | hbConfig =>
    have hmode' : (resumeStep s).vcuState = .none := by
      rw [resumeStep_vcuState, hmode]
      cases hkey : s.inp.key with
      | none => rfl
      | some c => exact hleaves hp c hkey
    obtain ⟨htick, htx⟩ := resumeStep_in_none hd13 hmode'
    rw [blockStep_of_hbConfig hp]
    exact ⟨htick, hmode', resumeStep_cmdPhase hp, by simp [htx]⟩

/-- Settles O55, by induction on the inputs before the last: the first step of the run keeps NONE, the tick and
the configuration, and leaves the rest of the run in the phase its key leads to. -/
theorem noneSuppressesEveryHeartbeat : Obligations.NoneSuppressesEveryHeartbeat := by
  intro s inputs last hok hd13 hmode htyped hleaves
  induction inputs generalizing s with
  | nil =>
    have ht : InputTyped s.cfg last := htyped last (List.mem_singleton_self last)
    obtain ⟨hfirst, -⟩ := hleaves
    refine ⟨_, run_withIterations_cons [] 0 hok ht, ?_⟩
    exact blockStep_in_none (s := (withIterations s []).withInp last) hok ht hd13 hmode hfirst
  | cons inp inputs ih =>
    have ht : InputTyped s.cfg inp := htyped inp (List.mem_cons_self ..)
    obtain ⟨hfirst, hrest⟩ := hleaves
    obtain ⟨htick, hmode', hphase, -⟩ := blockStep_in_none
      (s := (withIterations s (inputs ++ [last])).withInp inp) hok ht hd13 hmode hfirst
    have hcfg : (iterateOnce s inp (inputs ++ [last])).cfg = s.cfg :=
      blockStep_cfg (s := (withIterations s (inputs ++ [last])).withInp inp) ht
    have hphase' : (iterateOnce s inp (inputs ++ [last])).cmdPhase = phaseAfterKey s.cmdPhase inp.key := hphase
    obtain ⟨t, hrun, htick', hnone, hlast, htx⟩ := ih (iterateOnce s inp (inputs ++ [last])) (hcfg ▸ hok)
      (hcfg ▸ hd13) hmode' (fun i hi => hcfg ▸ htyped i (List.mem_cons_of_mem inp hi)) (hphase' ▸ hrest)
    rw [hphase'] at hlast htx
    rw [hcfg] at htx
    exact ⟨t, (run_withIterations_cons _ _ hok ht).trans hrun, htick'.trans htick, hnone, hlast, htx⟩

end Sys2Proof.Machine
end

section
/-! PROOFS. Phase 4 (R150 to R153, R157), and the registers and outputs of a PASS and of a PASS_RESUME with a
character, each from the state before the step (R157, R158). -/

namespace Sys2Proof.Machine

/-! ### Phase 4 -/

/-- Phase 4 runs, and its scheduler fires (R151, R157). -/
def phase4Fires (s : State) : Bool :=
  decide (s.cmdPhase = .top) && fires (elapsedTicks s.inp.now s.lastFireTick)

/-- A phase 4 that fires in a mode other than NONE stamps its tick, and no other does, under the rules' reading of
D13 and D14 (R152, R153). -/
theorem phase4_lastFireTick {s : State} (hd13 : s.vcuState = .none → s.cfg.updateTickInNone = false)
    (hd14 : s.cfg.updateTickOnFault = true) :
    (phase4 s).lastFireTick =
      if phase4Fires s = true ∧ s.vcuState ≠ .none then s.inp.now else s.lastFireTick := by
  rw [phase4, phase4Fires]
  by_cases hp : s.cmdPhase = .top
  · obtain ⟨-, -, -, -, -, -, -, htick, -⟩ := schedule_fields s
    rw [if_pos hp, htick]
    by_cases hmode : s.vcuState = .none
    · simp [hmode, hd13 hmode]
    · simp [hp, hmode, hd14]
  · simp [hp]

/-- What phase 4 appends and sets, where `hb_fire` was 0 before it (R150 to R153). -/
theorem phase4_outputs {s : State} (hfire : s.out.hbFire = false) :
    (phase4 s).canResetReq = (s.canResetReq ||
      decide (phase4Fires s = true ∧ s.vcuState ≠ .none ∧ s.inp.txFaultHb ≠ 0)) ∧
    (phase4 s).out.hbFire = phase4Fires s ∧
    (phase4 s).out.tx = s.out.tx ++ (if phase4Fires s then heartbeatFrames s.cfg s.vcuState else []) ∧
    (phase4 s).out.diag = s.out.diag ++
      (if phase4Fires s = true ∧ s.vcuState ≠ .none then transportEvents .tx s.inp.txFaultHb else []) := by
  rw [phase4, phase4Fires]
  by_cases hp : s.cmdPhase = .top
  · obtain ⟨-, -, -, -, -, -, -, -, hreq, hfire', htx, hdiag, -⟩ := schedule_fields s
    rw [if_pos hp, decide_eq_true hp, Bool.true_and]
    exact ⟨hreq, hfire', htx, hdiag⟩
  · simp [hp, hfire]

/-- Phase 4 leaves the routing result and the decoded outputs (R157). -/
theorem phase4_decoded (s : State) :
    (phase4 s).out.rxKind = s.out.rxKind ∧ (phase4 s).out.hbState = s.out.hbState ∧
    (phase4 s).out.hbSoc = s.out.hbSoc ∧ (phase4 s).out.hbStateReserved = s.out.hbStateReserved ∧
    (phase4 s).out.drResponse = s.out.drResponse := by
  obtain h | h := phase4_eq_or s
  · obtain ⟨-, -, -, -, -, -, -, -, -, -, -, -, hdecoded⟩ := schedule_fields s
    rw [h]
    exact hdecoded
  · rw [h]
    exact ⟨rfl, rfl, rfl, rfl, rfl⟩

/-! ### PASS -/

/-- A PASS runs its phase 4, and the scheduler fires (R157). -/
def passFires (s : State) : Bool :=
  decide (s.inp.key ≠ some 0x76) && fires (elapsedTicks s.inp.now s.lastFireTick)

theorem passFires_iff (s : State) :
    passFires s = true ↔ s.inp.key ≠ some 0x76 ∧ Fires s.inp.now s.lastFireTick := by
  rw [passFires, Bool.and_eq_true, decide_eq_true_eq, fires_elapsedTicks]

/-- The key decides whether phase 4 runs, and nothing before it writes what the scheduler reads (R157). -/
theorem phase4Fires_phases123 {s : State} (hok : s.cfg.ok = true) (hp : s.cmdPhase = .top)
    (ht : InputTyped s.cfg s.inp) : phase4Fires (phases123 s) = passFires s := by
  obtain ⟨htick, -, -, hinp⟩ := phases123_frame ht
  obtain ⟨hphase, -⟩ := phases123_cmdPhase_tx hok ht
  rw [phase4Fires, passFires, htick, hinp, hphase, hp]
  by_cases hkey : s.inp.key = some 0x76 <;> simp [hkey]

/-- What phases 1 to 3 leave in `CAN_RESET_REQ`, `hb_fire`, `rx_kind` and the events (R157, R181, R184). -/
theorem phases123_outputs {s : State} (hok : s.cfg.ok = true) (ht : InputTyped s.cfg s.inp) :
    (phases123 s).canResetReq = ((s.canResetReq && !s.inp.canResetAck) || decide (s.inp.rxFault ≠ 0) ||
      decide (s.inp.key = some s.cfg.keyDreq ∧ s.inp.txFaultDreq ≠ 0)) ∧
    (phases123 s).out.hbFire = false ∧
    (phases123 s).out.rxKind = kindOf s.cfg s.inp.rx ∧
    (phases123 s).out.diag = transportEvents .rx s.inp.rxFault ++ enumEvents s.cfg s.inp.rx ++
      topKeyEvents s.cfg s.inp.key ++
      (if s.inp.key = some s.cfg.keyDreq then transportEvents .tx s.inp.txFaultDreq else []) := by
  rw [phases123, acknowledge_beginStep]
  obtain ⟨-, -, -, hcfg, -, -, hinp, -, hreq, -, hfire, hkind, hdiag⟩ := rxPhase_fields { s with
    canResetReq := s.canResetReq && !s.inp.canResetAck
    rxBuf := Buffer.empty, txBuf := Buffer.empty, latch := Latches.clear, out := Output.clear } ht
  obtain ⟨-, -, -, -, -, -, -, -, hreq', -, hfire', hkind', hdiag'⟩ := cmdPhase3_fields _ (hcfg ▸ hok)
  rw [hreq', hfire', hkind', hdiag', hreq, hfire, hkind, hdiag, hcfg, hinp]
  exact ⟨rfl, rfl, rfl, rfl⟩

/-- A PASS that fires in a mode other than NONE stamps its tick, and no other does (R152, R153, R157). -/
theorem passStep_lastFireTick {s : State} (hok : s.cfg.ok = true) (hp : s.cmdPhase = .top)
    (ht : InputTyped s.cfg s.inp) (hd13 : s.vcuState = .none → s.cfg.updateTickInNone = false)
    (hd14 : s.cfg.updateTickOnFault = true) :
    (passStep s).lastFireTick =
      if passFires s = true ∧ s.vcuState ≠ .none then s.inp.now else s.lastFireTick := by
  obtain ⟨htick, hmode, hcfg, hinp⟩ := phases123_frame ht
  have h := phase4_lastFireTick (s := phases123 s) (by rwa [hmode, hcfg]) (by rwa [hcfg])
  rw [phase4Fires_phases123 hok hp ht, htick, hmode, hinp] at h
  exact h

/-- `CAN_RESET_REQ` and the scheduler's, the frames' and the events' outputs of a PASS, in phase order (R157, R160,
R181, R184, R188). -/
theorem passStep_outputs {s : State} (hok : s.cfg.ok = true) (hp : s.cmdPhase = .top)
    (ht : InputTyped s.cfg s.inp) :
    (passStep s).canResetReq = ((s.canResetReq && !s.inp.canResetAck) || decide (s.inp.rxFault ≠ 0) ||
      decide (s.inp.key = some s.cfg.keyDreq ∧ s.inp.txFaultDreq ≠ 0) ||
      decide (passFires s = true ∧ s.vcuState ≠ .none ∧ s.inp.txFaultHb ≠ 0)) ∧
    (passStep s).out.hbFire = passFires s ∧
    (passStep s).out.tx = (if s.inp.key = some s.cfg.keyDreq then [dreqFrame s.cfg] else []) ++
      (if passFires s then heartbeatFrames s.cfg s.vcuState else []) ∧
    (passStep s).out.diag = transportEvents .rx s.inp.rxFault ++ enumEvents s.cfg s.inp.rx ++
      topKeyEvents s.cfg s.inp.key ++
      (if s.inp.key = some s.cfg.keyDreq then transportEvents .tx s.inp.txFaultDreq else []) ++
      (if passFires s = true ∧ s.vcuState ≠ .none then transportEvents .tx s.inp.txFaultHb else []) := by
  obtain ⟨-, hmode, hcfg, hinp⟩ := phases123_frame ht
  obtain ⟨-, htx⟩ := phases123_cmdPhase_tx hok ht
  obtain ⟨hreq, hfire, -, hdiag⟩ := phases123_outputs hok ht
  have h := phase4_outputs hfire
  rw [phase4Fires_phases123 hok hp ht, hreq, htx, hdiag, hmode, hcfg, hinp] at h
  exact h

/-! ### PASS_RESUME with a character -/

/-- CMD_HBCFG leaves the sub-menu, so that what follows it is phase 4 (R134, R158). -/
theorem resumeStep_eq_phase4 {s : State} {c : Byte} (hkey : s.inp.key = some c) :
    resumeStep s = publish (phase4 (cmdHbcfg c (beginStep s))) := by
  obtain ⟨-, -, htop, -⟩ := cmdHbcfg_beginStep_fields c s
  rw [resumeStep_of_key hkey, phase4, if_pos htop]

theorem phase4Fires_cmdHbcfg (c : Byte) (s : State) :
    phase4Fires (cmdHbcfg c (beginStep s)) = fires (elapsedTicks s.inp.now s.lastFireTick) := by
  rw [cmdHbcfg_eq]
  rfl

/-- A PASS_RESUME that fires in the mode just written stamps its tick, unless that mode is NONE (R152, R153, R158). -/
theorem resumeStep_lastFireTick {s : State} {c : Byte} (hkey : s.inp.key = some c)
    (hd13 : s.cfg.updateTickInNone = false) (hd14 : s.cfg.updateTickOnFault = true) :
    (resumeStep s).lastFireTick =
      if fires (elapsedTicks s.inp.now s.lastFireTick) = true ∧ (modeOfKey c).getD s.vcuState ≠ .none
      then s.inp.now else s.lastFireTick := by
  have h := phase4_lastFireTick (s := cmdHbcfg c (beginStep s))
  rw [phase4Fires_cmdHbcfg, cmdHbcfg_eq] at h
  rw [resumeStep_eq_phase4 hkey, cmdHbcfg_eq]
  exact h (fun _ => hd13) hd14

/-- `CAN_RESET_REQ` and the scheduler's, the frames' and the events' outputs of a PASS_RESUME with a character
(R158, R184, R188). -/
theorem resumeStep_outputs {s : State} {c : Byte} (hkey : s.inp.key = some c) :
    (resumeStep s).canResetReq = (s.canResetReq || decide (fires (elapsedTicks s.inp.now s.lastFireTick) = true ∧
      (modeOfKey c).getD s.vcuState ≠ .none ∧ s.inp.txFaultHb ≠ 0)) ∧
    (resumeStep s).out.hbFire = fires (elapsedTicks s.inp.now s.lastFireTick) ∧
    (resumeStep s).out.tx = (if fires (elapsedTicks s.inp.now s.lastFireTick) then
      heartbeatFrames s.cfg ((modeOfKey c).getD s.vcuState) else []) ∧
    (resumeStep s).out.diag = cfgKeyEvents c ++
      (if fires (elapsedTicks s.inp.now s.lastFireTick) = true ∧ (modeOfKey c).getD s.vcuState ≠ .none
        then transportEvents .tx s.inp.txFaultHb else []) := by
  have h := phase4_outputs (s := cmdHbcfg c (beginStep s))
  rw [phase4Fires_cmdHbcfg, cmdHbcfg_eq] at h
  rw [resumeStep_eq_phase4 hkey, cmdHbcfg_eq]
  exact h rfl

end Sys2Proof.Machine
end

section
/-! PROOFS. The registers and outputs of a PASS and of a PASS_RESUME with a character, as the rules give them (R157,
R158). -/

namespace Sys2Proof.Machine

/-- The decoded outputs of a PASS are those its RX_PHASE leaves (R97, R157). -/
theorem passStep_decoded (s : State) :
    (passStep s).out.rxKind = (phases123 s).out.rxKind ∧
    (passStep s).out.hbState = (phases12 s).out.hbState ∧ (passStep s).out.hbSoc = (phases12 s).out.hbSoc ∧
    (passStep s).out.hbStateReserved = (phases12 s).out.hbStateReserved ∧
    (passStep s).out.drResponse = (phases12 s).out.drResponse := by
  obtain ⟨hkind, hstate, hsoc, hreserved, hdr⟩ := phase4_decoded (phases123 s)
  obtain ⟨hstate', hsoc', hreserved', hdr'⟩ := cmdPhase3_decoded (phases12 s)
  exact ⟨hkind, hstate.trans hstate', hsoc.trans hsoc', hreserved.trans hreserved', hdr.trans hdr'⟩

/-- A PASS_RESUME receives nothing: its decoded outputs are cleared (R158). -/
theorem resumeStep_decoded {s : State} {c : Byte} (hkey : s.inp.key = some c) :
    (resumeStep s).out.rxKind = .none ∧ (resumeStep s).out.hbState = 0 ∧ (resumeStep s).out.hbSoc = 0 ∧
    (resumeStep s).out.hbStateReserved = false ∧ (resumeStep s).out.drResponse = 0 := by
  have h := phase4_decoded (cmdHbcfg c (beginStep s))
  rw [cmdHbcfg_eq] at h
  rw [resumeStep_eq_phase4 hkey, cmdHbcfg_eq]
  exact h

/-- Settles O40: the two command registers by R142's table, the other two from `passStep_lastFireTick` and
`passStep_outputs`. -/
theorem passRegisters : Obligations.PassRegisters := by
  intro s hok hp ht hd13 hd14
  have hphase := passStep_cmdPhase hok ht hp
  have htick := passStep_lastFireTick hok hp ht (fun _ => hd13) hd14
  obtain ⟨hreq, -⟩ := passStep_outputs hok hp ht
  refine ⟨passStep s, exec_pass hp ht, passStep_vcuState ht, ?_, fun hkey hfires hmode => ?_, fun hnot => ?_, ?_⟩
  · rw [hphase, phaseAfterKey]
    split_ifs with hkey
    · exact iff_of_true rfl hkey
    · exact iff_of_false nofun hkey
  · rw [htick, if_pos ⟨(passFires_iff s).2 ⟨hkey, hfires⟩, hmode⟩]
  · rw [htick, if_neg (by rwa [passFires_iff, and_assoc])]
  · rw [hreq]
    simp only [Bool.or_eq_true, Bool.and_eq_true, Bool.not_eq_true', decide_eq_true_eq, passFires_iff, or_assoc,
      and_assoc]

/-- Settles O41: what is written after RX_PHASE from `passStep_outputs`, the rest from RX_PHASE's own laws. -/
theorem passOutputsInPhaseOrder : Obligations.PassOutputsInPhaseOrder := by
  intro s hok hp ht
  obtain ⟨-, hfire, htx, hdiag⟩ := passStep_outputs hok hp ht
  obtain ⟨-, -, hrouted, -⟩ := phases123_outputs hok ht
  obtain ⟨hkind, hstate, hsoc, hreserved, hdr⟩ := passStep_decoded s
  have hdecoded := rxPhase_decoded (acknowledge (beginStep s)) (by rwa [acknowledge_beginStep])
  refine ⟨passStep s, decide (s.inp.key = some s.cfg.keyDreq), passFires s, exec_pass hp ht, decide_eq_true_iff,
    passFires_iff s, hfire, hkind.trans hrouted, rfl, ?_, ?_, ?_⟩
  · simpa only [decide_eq_true_eq] using htx
  · simpa only [decide_eq_true_eq, Bool.and_eq_true] using hdiag
  · rw [hstate, hsoc, hreserved, hdr, phases12]
    rw [acknowledge_beginStep] at hdecoded ⊢
    exact hdecoded

/-- Settles O43: the second key's row, then phase 4 in the mode it leaves. -/
theorem resumeWithCharacterFinishesThePass : Obligations.ResumeWithCharacterFinishesThePass := by
  intro s c hp ht hkey hd13 hd14
  have hmode := resumeStep_vcuState s
  have hphase := resumeStep_cmdPhase hp
  rw [hkey] at hmode hphase
  have htick := resumeStep_lastFireTick hkey hd13 hd14
  obtain ⟨hreq, hfire, htx, hdiag⟩ := resumeStep_outputs hkey
  obtain ⟨hkind, hstate, hsoc, hreserved, hdr⟩ := resumeStep_decoded hkey
  refine ⟨resumeStep s, fires (elapsedTicks s.inp.now s.lastFireTick), (modeOfKey c).getD s.vcuState,
    exec_passResume hp ht, rfl, fires_elapsedTicks _ _, hmode, hphase, ?_, ?_, hkind, hstate, hsoc, hreserved, hdr,
    hfire, ?_, htx, ?_⟩
  · simpa only [Bool.and_eq_true, decide_eq_true_eq] using htick
  · rw [hreq, Bool.or_eq_true, decide_eq_true_eq]
  · rw [resumeStep_of_key hkey]
    rfl
  · simpa only [Bool.and_eq_true, decide_eq_true_eq] using hdiag

end Sys2Proof.Machine
end

section
/-! PROOFS. Runs of lined-up iterations that keep a property, one induction for all of them; and the scheduler along
such runs (R155, R159). -/

namespace Sys2Proof.Machine

/-- A property that each of the iterations `inputs` keeps holds after them, with `rest` still lined up. -/
theorem run_withIterations_keeps {P : State → Prop} {inputs : List Input} (rest : List Input) (n : Nat)
    (hkeeps : ∀ inp ∈ inputs, ∀ u rest, P u → u.cfg.ok = true ∧ InputTyped u.cfg inp ∧ P (iterateOnce u inp rest))
    {s : State} (hs : P s) :
    ∃ t, P t ∧
      core.run (inputs.length + n) (withIterations s (inputs ++ rest)) = core.run n (withIterations t rest) := by
  induction inputs generalizing s with
  | nil => exact ⟨s, hs, by rw [List.length_nil, Nat.zero_add, List.nil_append]⟩
  | cons inp inputs ih =>
    obtain ⟨hok, ht, hnext⟩ := hkeeps inp (List.mem_cons_self ..) s (inputs ++ rest) hs
    obtain ⟨t, hPt, hrun⟩ := ih (fun i hi => hkeeps i (List.mem_cons_of_mem inp hi)) hnext
    refine ⟨t, hPt, ?_⟩
    rw [List.length_cons, Nat.add_right_comm, List.cons_append, run_withIterations_cons _ _ hok ht, hrun]

/-- The last of the iterations lined up. -/
theorem run_withIterations_last {s : State} {inp : Input} (hok : s.cfg.ok = true) (ht : InputTyped s.cfg inp) :
    core.run 1 (withIterations s [inp]) = .next (iterateOnce s inp []) := by
  have hrest : withIterations (iterateOnce s inp []) [] = iterateOnce s inp [] :=
    withIterations_of_stim (blockStep_stim (s := (withIterations s []).withInp inp) ht)
  rw [run_withIterations_cons [] 0 hok ht, hrest]
  rfl

/-- `u` has the `LAST_FIRE_TICK`, mode, `CMD_PHASE` and configuration of `s`. -/
structure SameSchedule (s u : State) : Prop where
  lastFireTick : u.lastFireTick = s.lastFireTick
  vcuState : u.vcuState = s.vcuState
  cmdPhase : u.cmdPhase = s.cmdPhase
  cfg : u.cfg = s.cfg

theorem SameSchedule.refl (s : State) : SameSchedule s s := ⟨rfl, rfl, rfl, rfl⟩

theorem SameSchedule.trans {s t u : State} (hst : SameSchedule s t) (htu : SameSchedule t u) : SameSchedule s u :=
  ⟨htu.lastFireTick.trans hst.lastFireTick, htu.vcuState.trans hst.vcuState, htu.cmdPhase.trans hst.cmdPhase,
    htu.cfg.trans hst.cfg⟩

/-- Lining up what comes next, and taking an input record, leaves the schedule. -/
theorem SameSchedule.lineUp {s u : State} (h : SameSchedule s u) (inp : Input) (rest : List Input) :
    SameSchedule s ((withIterations u rest).withInp inp) :=
  ⟨h.lastFireTick, h.vcuState, h.cmdPhase, h.cfg⟩

theorem iterateOnce_of_top {s : State} (hp : s.cmdPhase = .top) (inp : Input) (rest : List Input) :
    iterateOnce s inp rest = passStep ((withIterations s rest).withInp inp) :=
  blockStep_of_top (s := (withIterations s rest).withInp inp) hp

theorem iterateOnce_of_hbConfig {s : State} (hp : s.cmdPhase = .hbConfig) (inp : Input) (rest : List Input) :
    iterateOnce s inp rest = resumeStep ((withIterations s rest).withInp inp) :=
  blockStep_of_hbConfig (s := (withIterations s rest).withInp inp) hp

/-! ### Passes at TOP without a key (R155) -/

/-- The state is at TOP in a mode that has a heartbeat, under a configuration that passes the check and D14 as the
rules read it. -/
structure Beating (s : State) : Prop where
  ok : s.cfg.ok = true
  top : s.cmdPhase = .top
  mode : s.vcuState ≠ .none
  stampsOnFault : s.cfg.updateTickOnFault = true

theorem SameSchedule.beating {s u : State} (h : SameSchedule s u) (hs : Beating s) : Beating u :=
  ⟨h.cfg ▸ hs.ok, h.cmdPhase.trans hs.top, h.vcuState ▸ hs.mode, h.cfg ▸ hs.stampsOnFault⟩

/-- `u` has the schedule of `s`, and the step that led to `u` sent nothing. -/
structure QuietSince (s u : State) : Prop extends SameSchedule s u where
  tx : u.out.tx = []
  hbFire : u.out.hbFire = false

theorem SameSchedule.quietSince {s t u : State} (hst : SameSchedule s t) (htu : QuietSince t u) : QuietSince s u :=
  ⟨hst.trans htu.toSameSchedule, htu.tx, htu.hbFire⟩

/-- A keyless pass at most 1000 ticks past the last heartbeat keeps the schedule and sends nothing. -/
theorem passStep_quiet {s : State} (hs : Beating s) (ht : InputTyped s.cfg s.inp) (hkey : s.inp.key = none)
    (hquiet : ¬ Fires s.inp.now s.lastFireTick) : QuietSince s (passStep s) := by
  have hnot : passFires s = false := by
    rw [← Bool.not_eq_true, passFires_iff]
    exact fun ⟨_, hfires⟩ => hquiet hfires
  have htick := passStep_lastFireTick hs.ok hs.top ht (fun h => absurd h hs.mode) hs.stampsOnFault
  have hphase := passStep_cmdPhase hs.ok ht hs.top
  obtain ⟨-, hfire, htx, -⟩ := passStep_outputs hs.ok hs.top ht
  rw [hkey] at hphase htx
  rw [hnot] at htick hfire htx
  exact ⟨⟨by simpa using htick, passStep_vcuState ht, hphase.trans hs.top.symm, passStep_cfg ht⟩, by simpa using htx,
    hfire⟩

/-- A keyless pass more than 1000 ticks past the last heartbeat sends the heartbeat and stamps its tick. -/
theorem passStep_firing {s : State} (hs : Beating s) (ht : InputTyped s.cfg s.inp) (hkey : s.inp.key = none)
    (hfires : Fires s.inp.now s.lastFireTick) :
    (passStep s).lastFireTick = s.inp.now ∧ (passStep s).out.tx = heartbeatFrames s.cfg s.vcuState := by
  have hfire : passFires s = true := (passFires_iff s).2 ⟨by rw [hkey]; nofun, hfires⟩
  have htick := passStep_lastFireTick hs.ok hs.top ht (fun h => absurd h hs.mode) hs.stampsOnFault
  obtain ⟨-, -, htx, -⟩ := passStep_outputs hs.ok hs.top ht
  rw [hkey] at htx
  exact ⟨by rw [htick, if_pos ⟨hfire, hs.mode⟩], by simpa [hfire] using htx⟩

/-- A mode other than NONE has one heartbeat frame (R140). -/
theorem heartbeatFrames_length (cfg : Config) {mode : VcuState} (h : mode ≠ .none) :
    (heartbeatFrames cfg mode).length = 1 := by
  cases mode with
  | standby => rfl
  | discharge => rfl
  | none => exact absurd rfl h

/-- Settles O56: each quiet pass keeps the schedule and sends nothing, so the last pass measures from the first
state's `LAST_FIRE_TICK`. -/
theorem schedulerFiresOnceAtTheFirstTickPast1000 : Obligations.SchedulerFiresOnceAtTheFirstTickPast1000 := by
  intro s quiet last hok hd14 hp hmode hquiet ht hkey hfires
  have hs : Beating s := ⟨hok, hp, hmode, hd14⟩
  have hkeeps : ∀ inp ∈ quiet, ∀ u rest, SameSchedule s u →
      u.cfg.ok = true ∧ InputTyped u.cfg inp ∧ QuietSince s (iterateOnce u inp rest) := by
    intro inp hinp u rest hu
    obtain ⟨htyped, hnokey, hnot⟩ := hquiet inp hinp
    rw [← hu.cfg] at htyped
    rw [← hu.lastFireTick] at hnot
    have hlined := hu.lineUp inp rest
    rw [iterateOnce_of_top (hu.beating hs).top]
    exact ⟨(hu.beating hs).ok, htyped, hlined.quietSince (passStep_quiet (hlined.beating hs) htyped hnokey hnot)⟩
  refine ⟨?_, ?_⟩
  · cases quiet with
    | nil => exact ⟨withIterations s [], rfl, rfl, fun h => absurd rfl h⟩
    | cons first quiet =>
      obtain ⟨hok', htyped, hfirst⟩ := hkeeps first (List.mem_cons_self ..) s quiet (.refl s)
      obtain ⟨t, hquietSince, hrun⟩ := run_withIterations_keeps (P := QuietSince s) [] 0
        (fun inp hinp u rest hu => hkeeps inp (List.mem_cons_of_mem first hinp) u rest hu.toSameSchedule) hfirst
      rw [List.append_nil] at hrun
      exact ⟨withIterations t [], (run_withIterations_cons quiet _ hok' htyped).trans hrun,
        hquietSince.lastFireTick, fun _ => ⟨hquietSince.tx, hquietSince.hbFire⟩⟩
  · obtain ⟨t, hsame, hrun⟩ := run_withIterations_keeps (P := SameSchedule s) [last] 1
      (fun inp hinp u rest hu =>
        (hkeeps inp hinp u rest hu).imp_right (And.imp_right QuietSince.toSameSchedule)) (.refl s)
    rw [← hsame.cfg] at ht
    rw [← hsame.lastFireTick] at hfires
    have hlined := hsame.lineUp last []
    obtain ⟨hstamp, htx⟩ := passStep_firing (hlined.beating hs) ht hkey hfires
    rw [hlined.cfg, hlined.vcuState] at htx
    have hrun' := hrun.trans (run_withIterations_last (hsame.beating hs).ok ht)
    rw [iterateOnce_of_top (hsame.beating hs).top] at hrun'
    exact ⟨_, hrun', hstamp, (passStep_vcuState ht).trans hlined.vcuState, htx,
      (congrArg List.length htx).trans (heartbeatFrames_length s.cfg hmode)⟩

/-! ### A pass split by `'v'` (R159) -/

/-- `u` has the schedule and the reset request of `s`. -/
structure SameRegisters (s u : State) : Prop extends SameSchedule s u where
  canResetReq : u.canResetReq = s.canResetReq

/-- Waiting for the second key keeps the four registers (R139, R197). -/
theorem resumeStep_waits {s : State} (hkey : s.inp.key = none) : SameRegisters s (resumeStep s) := by
  rw [resumeStep_of_key_none hkey, publish, beginStep]
  refine ⟨⟨?_, ?_, ?_, ?_⟩, ?_⟩ <;> simp

theorem SameRegisters.trans {s t u : State} (hst : SameRegisters s t) (htu : SameRegisters t u) : SameRegisters s u :=
  ⟨hst.toSameSchedule.trans htu.toSameSchedule, htu.canResetReq.trans hst.canResetReq⟩

theorem SameRegisters.lineUp {s u : State} (h : SameRegisters s u) (inp : Input) (rest : List Input) :
    SameRegisters s ((withIterations u rest).withInp inp) :=
  ⟨h.toSameSchedule.lineUp inp rest, h.canResetReq⟩

/-- Any number of keyless iterations at HB_CONFIG keep the four registers (R139, R197). -/
theorem run_waits {s : State} (hok : s.cfg.ok = true) (hp : s.cmdPhase = .hbConfig) {waits : List Input}
    (hwaits : ∀ inp ∈ waits, InputTyped s.cfg inp ∧ inp.key = none) (rest : List Input) (n : Nat) :
    ∃ t, SameRegisters s t ∧
      core.run (waits.length + n) (withIterations s (waits ++ rest)) = core.run n (withIterations t rest) := by
  refine run_withIterations_keeps rest n (fun inp hinp u rest hu => ?_) ⟨.refl s, rfl⟩
  obtain ⟨htyped, hkey⟩ := hwaits inp hinp
  rw [iterateOnce_of_hbConfig (hu.cmdPhase.trans hp), hu.cfg]
  exact ⟨hok, htyped, (hu.lineUp inp rest).trans (resumeStep_waits hkey)⟩

/-- An iteration that takes `'v'` acknowledges, receives and opens the sub-menu (R131, R157). -/
theorem iterateOnce_of_v {s : State} {inp : Input} (rest : List Input) (hok : s.cfg.ok = true)
    (hp : s.cmdPhase = .top) (ht : InputTyped s.cfg inp) (hkey : inp.key = some 0x76)
    (hd13 : s.cfg.updateTickInNone = false) (hd14 : s.cfg.updateTickOnFault = true) :
    (iterateOnce s inp rest).lastFireTick = s.lastFireTick ∧ (iterateOnce s inp rest).vcuState = s.vcuState ∧
    (iterateOnce s inp rest).cmdPhase = .hbConfig ∧ (iterateOnce s inp rest).cfg = s.cfg ∧
    ((iterateOnce s inp rest).canResetReq = true ↔
      (s.canResetReq = true ∧ inp.canResetAck = false) ∨ inp.rxFault ≠ 0) := by
  obtain ⟨t, hexec, hmode, hphase, -, htick, hreq⟩ :=
    passRegisters ((withIterations s rest).withInp inp) hok hp ht hd13 hd14
  obtain ⟨-, -, rfl⟩ := exec_pass_next hexec
  have hdreq : some keyV ≠ some s.cfg.keyDreq := fun h => Config.key_of_ok hok (Option.some.inj h).symm
  rw [iterateOnce_of_top hp]
  refine ⟨htick fun ⟨hnot, _⟩ => hnot hkey, hmode, hphase.2 hkey,
    passStep_cfg (s := (withIterations s rest).withInp inp) ht, hreq.trans ?_⟩
  constructor
  · rintro (hkept | hfault | ⟨hkey', -⟩ | ⟨hnot, -⟩)
    · exact .inl hkept
    · exact .inr hfault
    · exact absurd (hkey.symm.trans hkey') hdreq
    · exact absurd hkey hnot
  · rintro (hkept | hfault)
    · exact .inl hkept
    · exact .inr (.inl hfault)

/-- Where NONE is selected, firing and not firing send the same: nothing (R153). -/
theorem heartbeatFrames_ite (cfg : Config) (mode : VcuState) (fire : Bool) :
    (if fire then heartbeatFrames cfg mode else []) =
      if fire && decide (mode ≠ .none) then heartbeatFrames cfg mode else [] := by
  by_cases hmode : mode = .none
  · simp [hmode, heartbeatFrames]
  · simp [hmode]

/-- An iteration that takes the second key runs phase 4 in the mode of that key; `sent` says whether it sends a
heartbeat (R158). -/
theorem iterateOnce_of_secondKey {s : State} {inp : Input} {c : Byte} (rest : List Input)
    (hp : s.cmdPhase = .hbConfig) (ht : InputTyped s.cfg inp) (hkey : inp.key = some c)
    (hd13 : s.cfg.updateTickInNone = false) (hd14 : s.cfg.updateTickOnFault = true) :
    ∃ sent : Bool,
      (sent = true ↔ Fires inp.now s.lastFireTick ∧ (modeOfKey c).getD s.vcuState ≠ .none) ∧
      (iterateOnce s inp rest).vcuState = (modeOfKey c).getD s.vcuState ∧
      (iterateOnce s inp rest).cmdPhase = .top ∧
      (iterateOnce s inp rest).lastFireTick = (if sent then inp.now else s.lastFireTick) ∧
      ((iterateOnce s inp rest).canResetReq = true ↔
        s.canResetReq = true ∨ (sent = true ∧ inp.txFaultHb ≠ 0)) ∧
      (iterateOnce s inp rest).out.tx =
        if sent then heartbeatFrames s.cfg ((modeOfKey c).getD s.vcuState) else [] := by
  obtain ⟨t, fire, mode, hexec, rfl, hfire, hmode, hphase, htick, hreq, -, -, -, -, -, -, -, htx, -⟩ :=
    resumeWithCharacterFinishesThePass ((withIterations s rest).withInp inp) c hp ht hkey hd13 hd14
  obtain ⟨-, -, rfl⟩ := exec_passResume_next hexec
  rw [iterateOnce_of_hbConfig hp]
  refine ⟨_, ?_, hmode, hphase, htick, hreq.trans ?_, htx.trans (heartbeatFrames_ite _ _ _)⟩
  · rw [Bool.and_eq_true, hfire, decide_eq_true_eq]
    rfl
  · rw [Bool.and_eq_true, decide_eq_true_eq, and_assoc]
    rfl

/-- Settles O57: the first step leaves the mode and the tick, the waits leave every register, and the last step runs
phase 4 in the mode of its character. -/
theorem splitPassIsOneIteration : Obligations.SplitPassIsOneIteration := by
  intro s first waits second c hok hd13 hd14 hp htyped1 hkey1 hwaits htyped2 hkey2
  obtain ⟨htick1, hmode1, hphase1, hcfg1, hreq1⟩ :=
    iterateOnce_of_v (waits ++ [second]) hok hp htyped1 hkey1 hd13 hd14
  have hrun1 := run_withIterations_cons (waits ++ [second]) (waits.length + 1) hok htyped1
  obtain ⟨u, hu, hrun2⟩ := run_waits (hcfg1 ▸ hok) hphase1 (hcfg1 ▸ hwaits) [second] 1
  have hcfg := hu.cfg.trans hcfg1
  obtain ⟨sent, hsent, hmode, hphase, htick, hreq, htx⟩ := iterateOnce_of_secondKey [] (hu.cmdPhase.trans hphase1)
    (hcfg ▸ htyped2) hkey2 (hcfg ▸ hd13) (hcfg ▸ hd14)
  have hrun3 := run_withIterations_last (hcfg ▸ hok) (hcfg ▸ htyped2)
  rw [hu.lastFireTick.trans htick1] at hsent htick
  rw [hu.vcuState.trans hmode1] at hsent hmode htx
  rw [hu.canResetReq, hreq1, or_assoc] at hreq
  rw [hcfg] at htx
  exact ⟨_, (modeOfKey c).getD s.vcuState, sent, hrun1.trans (hrun2.trans hrun3), rfl, hsent, hmode, hphase, htick,
    hreq, htx⟩

end Sys2Proof.Machine
end

section
/-! PROOFS. The scheduler's operations called by themselves (R150 to R154), and the steps of the block as the
operations they run in order (R157, R158, R161). -/

namespace Sys2Proof.Machine

/-! ### SCHED_CHECK and TX_HB -/

theorem exec_schedCheck (s : State) : exec .schedCheck s = .next (schedCheck s) := rfl

theorem exec_schedCheckFire (s : State) : exec .schedCheckFire s = .next (schedFire s) := rfl

theorem exec_txHb (s : State) : exec .txHb s = .next (txHb s) := rfl

theorem exec_txHbNone (s : State) : exec .txHbNone s = .next (txHbNone s) := rfl

/-- `elapsed` with the 32-bit wrap written out (R150). -/
theorem elapsedTicks_eq_ofNat (now last : Tick) :
    elapsedTicks now last = BitVec.ofNat 32 ((now.toNat + 2 ^ 32 - last.toNat) % 2 ^ 32) := by
  apply BitVec.eq_of_toNat_eq
  rw [elapsedTicks, BitVec.toNat_sub, BitVec.toNat_ofNat, Nat.mod_mod]
  congr 1
  have hlast := last.isLt
  omega

/-- Settles O34: `elapsed` is the wrapped difference, and each half of SCHED_CHECK writes one field. -/
theorem schedCheckComputesElapsedAndFire : Obligations.SchedCheckComputesElapsedAndFire := by
  intro s
  refine ⟨?_, rfl⟩
  rw [exec_schedCheck, schedCheck, elapsedTicks_eq_ofNat]
  rfl

/-- Settles O35: subtracting the starting tick leaves the distance, which is below one wrap. -/
theorem elapsedIsExactBelowOneWrap : Obligations.ElapsedIsExactBelowOneWrap := by
  intro s d hd hnow
  have helapsed : (elapsedTicks s.inp.now s.lastFireTick).toNat = d := by
    rw [hnow, elapsedTicks, BitVec.add_comm, BitVec.add_sub_cancel, BitVec.toNat_ofNat, Nat.mod_eq_of_lt hd]
  refine ⟨_, _, exec_schedCheck s, exec_schedCheckFire _, helapsed, ?_⟩
  change fires (elapsedTicks s.inp.now s.lastFireTick) = true ↔ d > 1000
  rw [fires, helapsed, decide_eq_true_eq]

/-- TX_HB does nothing where the scheduler did not fire (R152). -/
theorem txHb_of_not_fire {s : State} (hfire : s.out.hbFire = false) : txHb s = s := by
  rw [txHb_eq, hfire, if_neg Bool.false_ne_true]

/-- TX_HB in NONE latches that nothing is rendered, and no more (R153). -/
theorem txHb_in_none {s : State} (hfire : s.out.hbFire = true) (hmode : s.vcuState = .none)
    (hd13 : s.cfg.updateTickInNone = false) :
    txHb s = { s with latch := { s.latch with rendered := none } } := by
  rw [txHb_eq, if_pos hfire, if_pos hmode, hd13, if_neg Bool.false_ne_true]

/-- TX_HB in a mode that has a heartbeat, under D14 as the rules read it (R152). -/
theorem txHb_in_mode {s : State} (hfire : s.out.hbFire = true) (hmode : s.vcuState ≠ .none)
    (hd14 : s.cfg.updateTickOnFault = true) :
    txHb s = { s with
      lastFireTick := s.inp.now
      canResetReq := s.canResetReq || decide (s.inp.txFaultHb ≠ 0)
      txBuf := storeWord s.txBuf (byteAt ((renderByte s.cfg s.vcuState).getD 0) 0) 1
      latch := { s.latch with rendered := renderByte s.cfg s.vcuState }
      out := { s.out with
        tx := s.out.tx ++ heartbeatFrames s.cfg s.vcuState
        diag := s.out.diag ++ transportEvents .tx s.inp.txFaultHb } } := by
  rw [txHb_eq, if_pos hfire, if_neg hmode, if_pos (.inr hd14)]

/-- STOREW of the byte a mode renders to fills the TX buffer with that mode's frame (R140, R152). -/
theorem storeRendered_read (cfg : Config) (mode : VcuState) (buf : Buffer) {f : Frame}
    (hf : f ∈ heartbeatFrames cfg mode) {k : Nat} (hk : k < 8) :
    (storeWord buf (byteAt ((renderByte cfg mode).getD 0) 0) 1).mem.read k = f.bytes.toList.getD k 0 := by
  cases mode with
  | standby =>
    obtain rfl := List.mem_singleton.1 hf
    exact storeByte_tagFrame buf _ cfg.tagHbStandby k hk
  | discharge =>
    obtain rfl := List.mem_singleton.1 hf
    exact storeByte_tagFrame buf _ cfg.tagHbDischarge k hk
  | none => exact absurd hf List.not_mem_nil

/-- Settles O36: the three cases of TX_HB, and the bytes STOREW leaves in the TX buffer. -/
theorem txHbTransmitsAndStamps : Obligations.TxHbTransmitsAndStamps := by
  intro s hd13 hd14
  refine ⟨fun hfire => ?_, fun hfire hmode => ?_, fun hfire hmode => ?_⟩
  · rw [exec_txHb, txHb_of_not_fire hfire]
  · rw [exec_txHb, txHb_in_none hfire hmode hd13]
  · refine ⟨storeWord s.txBuf (byteAt ((renderByte s.cfg s.vcuState).getD 0) 0) 1, renderByte s.cfg s.vcuState,
      ?_, rfl, rfl, fun f hf k hk => storeRendered_read s.cfg s.vcuState s.txBuf hf hk, fun k hk => ?_⟩
    · rw [exec_txHb, txHb_in_mode hfire hmode hd14]
    · rw [storeByte_read, if_neg (by omega), if_neg (by omega)]

/-- Settles O37: under D13 as the rule reads it the skipped arm writes nothing. -/
theorem txHbSkipsInNone : Obligations.TxHbSkipsInNone := by
  intro s
  refine ⟨fun hfire hmode hd13 => ?_, fun hfire => ?_⟩
  · have hskip : txHbNone s = { s with latch := { s.latch with rendered := none } } := by
      rw [txHbNone, if_pos hfire, skipHeartbeat, State.withLatch_cfg, hd13]
      rfl
    rw [exec_txHb, exec_txHbNone, txHb_in_none hfire hmode hd13, hskip]
    exact ⟨rfl, rfl⟩
  · rw [exec_txHb, exec_txHbNone, txHb_of_not_fire hfire, txHbNone, hfire]
    exact ⟨rfl, rfl⟩

/-! ### The steps of the block -/

theorem exec_rxPhase {s : State} (ht : InputTyped s.cfg s.inp) : exec .rxPhase s = .next (rxPhase s) :=
  withTypedInput_of_typed rxPhase ht

/-- Settles O39: phase 1 with the cleared record is `acknowledge_beginStep`, and `phase4` says whether the last three
operations run. -/
theorem passIsItsFourPhases : Obligations.PassIsItsFourPhases := by
  intro s hp ht
  refine ⟨phases12 s, phases123 s, phase4 (phases123 s), ?_, exec_cmdPhase3 _, fun htop => ?_, fun hcfg => ?_,
    exec_pass hp ht⟩
  · rw [← acknowledge_beginStep]
    exact exec_rxPhase (by rwa [acknowledge_beginStep])
  · refine ⟨_, _, exec_schedCheck _, exec_schedCheckFire _, ?_⟩
    rw [exec_txHb, phase4, if_pos htop, schedule]
  · rw [phase4, hcfg, if_neg (by decide)]

/-- Settles O42: without a character the step is its start, with one it is the second key and phase 4. -/
theorem resumeIsTheSecondKeyThenPhaseFour : Obligations.ResumeIsTheSecondKeyThenPhaseFour := by
  intro s hp ht
  refine ⟨fun hkey => ?_, fun c hkey => ?_⟩
  · rw [exec_passResume hp ht, resumeStep_of_key_none hkey]
    simp only [publish, beginStep, State.withOut, State.withLatch, State.withRxBuf, State.withTxBuf]
  · refine ⟨_, _, _, _, exec_cmdHbcfg c _, exec_schedCheck _, exec_schedCheckFire _, exec_txHb _, ?_⟩
    rw [exec_passResume hp ht, resumeStep_of_key hkey]
    rfl

/-- PASS is refused at HB_CONFIG (R161). -/
theorem exec_pass_of_hbConfig {s : State} (hp : s.cmdPhase = .hbConfig) :
    exec .pass s = .refused .stepNotEnabled := by
  change execPass s = _
  rw [execPass, hp, if_neg (by decide)]

/-- PASS_RESUME is refused at TOP (R161). -/
theorem exec_passResume_of_top {s : State} (hp : s.cmdPhase = .top) :
    exec .passResume s = .refused .stepNotEnabled := by
  change execPassResume s = _
  rw [execPassResume, hp, if_neg (by decide)]

/-- Settles O7: each step of the block tests `CMD_PHASE`, then the types of its inputs. -/
theorem enabledStepsComplete : Obligations.EnabledStepsComplete := fun s =>
  ⟨fun hp ht => ⟨passStep s, exec_pass hp ht⟩, exec_passResume_of_top,
    fun hp ht => ⟨resumeStep s, exec_passResume hp ht⟩, exec_pass_of_hbConfig, resetStep s, rfl⟩

/-- Settles O6: the event is taken by `takeEvent`, and an iteration runs the selected step. -/
theorem stepRunsWhatCmdPhaseSelects : Obligations.StepRunsWhatCmdPhaseSelects := by
  intro s e hok he
  refine ⟨takeEvent s, ⟨rfl, fun hstim => if_neg hstim, rfl⟩, ?_⟩
  cases e with
  | iterate inp =>
    rw [step_of_iterate hok he]
    refine ⟨fun hp => ?_, fun hp => ?_⟩
    · rw [hp]
      rfl
    · rw [hp]
      rfl
  | reset => exact step_of_reset hok he

end Sys2Proof.Machine
end

section
/-! PROOFS. The wait for the second key (R195, R197), and what moves the reset request (R181, R186). -/

namespace Sys2Proof.Machine

/-! ### The wait for the second key -/

/-- The output record of a step that waits: all clear but the published register (R139, R158). -/
theorem resumeStep_out_of_key_none {s : State} (hkey : s.inp.key = none) :
    (resumeStep s).out = { Output.clear with canResetReq := s.canResetReq } := by
  rw [resumeStep_of_key_none hkey]
  rfl

/-- Settles O54: the steps before the last keep the registers (`run_waits`), and the last keeps them and leaves a
clear output record. -/
theorem waitIsLeftOnlyByACharacter : Obligations.WaitIsLeftOnlyByACharacter := by
  intro s inputs hok hp hne hwaits
  obtain rfl | ⟨waits, last, rfl⟩ := List.eq_nil_or_concat' inputs
  · exact absurd rfl hne
  obtain ⟨u, hu, hrun⟩ := run_waits hok hp (fun inp hinp => hwaits inp (List.mem_append_left [last] hinp)) [last] 1
  obtain ⟨htyped, hkey⟩ := hwaits last List.mem_concat_self
  have hstep := iterateOnce_of_hbConfig (hu.cmdPhase.trans hp) last []
  have hsame := (hu.lineUp last []).trans (resumeStep_waits hkey)
  rw [← hstep] at hsame
  refine ⟨iterateOnce u last [], ?_, hsame.lastFireTick, hsame.vcuState, hsame.cmdPhase.trans hp, hsame.canResetReq,
    ?_⟩
  · rw [List.length_append, List.length_singleton, hrun, run_withIterations_last (hu.cfg ▸ hok) (hu.cfg ▸ htyped)]
  · rw [hstep, resumeStep_out_of_key_none hkey]
    exact ⟨rfl, rfl, rfl⟩

/-! ### The reset request -/

/-- `CAN_RESET_REQ` after a PASS: kept without an acknowledge, or set by one of its three transport calls. -/
theorem passStep_canResetReq_iff {s : State} (hok : s.cfg.ok = true) (hp : s.cmdPhase = .top)
    (ht : InputTyped s.cfg s.inp) :
    (passStep s).canResetReq = true ↔ (s.canResetReq = true ∧ s.inp.canResetAck = false) ∨ s.inp.rxFault ≠ 0 ∨
      (s.inp.key = some s.cfg.keyDreq ∧ s.inp.txFaultDreq ≠ 0) ∨
      (s.inp.key ≠ some 0x76 ∧ Fires s.inp.now s.lastFireTick ∧ s.vcuState ≠ .none ∧ s.inp.txFaultHb ≠ 0) := by
  obtain ⟨hreq, -⟩ := passStep_outputs hok hp ht
  simp only [hreq, Bool.or_eq_true, Bool.and_eq_true, Bool.not_eq_true', decide_eq_true_eq, passFires_iff, or_assoc,
    and_assoc]

/-- `CAN_RESET_REQ` after a PASS_RESUME: kept, or set by the heartbeat after the second key. -/
theorem resumeStep_canResetReq_iff (s : State) :
    (resumeStep s).canResetReq = true ↔ s.canResetReq = true ∨
      ∃ c, s.inp.key = some c ∧ Fires s.inp.now s.lastFireTick ∧ (modeOfKey c).getD s.vcuState ≠ .none ∧
        s.inp.txFaultHb ≠ 0 := by
  cases hkey : s.inp.key with
  | none => simp [(resumeStep_waits hkey).canResetReq]
  | some c =>
    obtain ⟨hreq, -⟩ := resumeStep_outputs hkey
    simp [hreq, fires_elapsedTicks]

/-- Settles O53: an iteration moves the register as the selected step does, and RESET leaves it clear. -/
theorem onlyFaultsRaiseTheResetRequest : Obligations.OnlyFaultsRaiseTheResetRequest := by
  intro s t e he hstep
  obtain ⟨hok, -⟩ := step_next hstep
  cases e with
  | reset =>
    rw [step_of_reset hok he] at hstep
    obtain rfl := Host.Outcome.next.inj hstep
    exact ⟨fun _ hset => absurd hset Bool.false_ne_true, fun _ _ => .inl rfl⟩
  | iterate inp =>
    rw [step_of_iterate hok he] at hstep
    obtain ⟨ht, rfl⟩ := exec_selectStep_next (s := (takeEvent s).withInp inp) hstep
    cases hp : s.cmdPhase with
    | top =>
      have hiff := passStep_canResetReq_iff (s := (takeEvent s).withInp inp) hok hp ht
      rw [blockStep_of_top (s := (takeEvent s).withInp inp) hp]
      refine ⟨fun hclear hset => ⟨inp, rfl, ?_⟩, fun hset hclear => .inr ⟨inp, rfl, rfl, ?_⟩⟩
      · obtain ⟨hwas, -⟩ | hfault | hdreq | hheartbeat := hiff.1 hset
        · exact absurd (hclear.symm.trans hwas) Bool.false_ne_true
        · exact .inl ⟨rfl, hfault⟩
        · exact .inr (.inl ⟨rfl, hdreq⟩)
        · exact .inr (.inr (.inl ⟨rfl, hheartbeat⟩))
      · by_contra hack
        have hkept := hiff.2 (.inl ⟨hset, Bool.eq_false_of_not_eq_true hack⟩)
        exact Bool.false_ne_true (hclear.symm.trans hkept)
    | hbConfig =>
      have hiff := resumeStep_canResetReq_iff ((takeEvent s).withInp inp)
      rw [blockStep_of_hbConfig (s := (takeEvent s).withInp inp) hp]
      refine ⟨fun hclear hset => ⟨inp, rfl, ?_⟩, fun hset hclear => ?_⟩
      · obtain hwas | hheartbeat := hiff.1 hset
        · exact absurd (hclear.symm.trans hwas) Bool.false_ne_true
        · exact .inr (.inr (.inr ⟨rfl, hheartbeat⟩))
      · exact absurd (hclear.symm.trans (hiff.2 (.inl hset))) Bool.false_ne_true

end Sys2Proof.Machine
end

section
/-! PROOFS. What the block refuses: configurations and inputs outside their types (R196); and the call codes that are
refused or run nothing (R46, R60, log entries 5, 22). -/

namespace Sys2Proof.Machine

/-! ### Inputs outside their types -/

/-- A received frame over 8 bytes is refused before anything else is looked at (R196). -/
theorem inputRefusal_of_longFrame {cfg : Config} {inp : Input} {f : Frame} (hrx : inp.rx = some f) (hlen : 8 < f.len) :
    inputRefusal cfg inp = some .frameLength := by
  simp [inputRefusal, hrx, hlen]

/-- An identifier too wide is refused where the length is in its type (R196). -/
theorem inputRefusal_of_wideIdentifier {cfg : Config} {inp : Input} {f : Frame} (hrx : inp.rx = some f)
    (hlen : f.len ≤ 8) (hid : 2 ^ cfg.idWidth ≤ f.id) : inputRefusal cfg inp = some .identifierRange := by
  simp [inputRefusal, hrx, Nat.not_lt.2 hlen, hid]

/-- The step `CMD_PHASE` selects is refused for the reason its input record is (R161, R196). -/
theorem exec_steps_of_inputRefusal {s : State} {r : Refusal} (h : inputRefusal s.cfg s.inp = some r) :
    (s.cmdPhase = .top → exec .pass s = .refused r) ∧ (s.cmdPhase = .hbConfig → exec .passResume s = .refused r) := by
  have hrefused (f : State → State) : withTypedInput s f = .refused r := by rw [withTypedInput, h]
  exact ⟨fun hp => (if_pos hp).trans (hrefused passStep), fun hp => (if_pos hp).trans (hrefused resumeStep)⟩

/-- Settles O9: the two checks of R196 are the constraints and the types, and each named refusal is the first of
`inputRefusal` that applies. -/
theorem illTypedInputsAreRefused : Obligations.IllTypedInputsAreRefused := by
  refine ⟨fun s hbad => ?_, fun s hbad => ?_, fun s f hrx hlen => ?_, fun s f hrx hlen hid => ?_⟩
  · exact step_of_not_ok fun hok => hbad ((configurationCheckIsTheConstraints s.cfg).1 hok)
  · obtain ⟨r, hr⟩ := Option.ne_none_iff_exists'.1 fun hnone => hbad ((inputRefusal_eq_none s.cfg s.inp).1 hnone)
    obtain ⟨hpass, hresume⟩ := exec_steps_of_inputRefusal hr
    exact ⟨fun hp => ⟨r, hpass hp⟩, fun hp => ⟨r, hresume hp⟩⟩
  · exact exec_steps_of_inputRefusal (inputRefusal_of_longFrame hrx hlen)
  · exact exec_steps_of_inputRefusal (inputRefusal_of_wideIdentifier hrx hlen hid)

/-! ### Call codes outside the operations -/

/-- A call whose code is refused refuses the step. -/
theorem step_of_refusedCall {s : State} {code : List Byte} {inp : Input} {rest : List Stimulus} {r : Refusal}
    (hok : s.cfg.ok = true) (hstim : s.stim = .call code inp :: rest) (hcall : decodeCall s.cfg code = .error r) :
    step s = .refused r := by
  simp only [step, fetch, if_pos hok, hstim, hcall]

/-- A call whose code asks for no operation is taken off the line-up, and nothing runs. -/
theorem step_of_idleCall {s : State} {code : List Byte} {inp : Input} {rest : List Stimulus}
    (hok : s.cfg.ok = true) (hstim : s.stim = .call code inp :: rest) (hcall : decodeCall s.cfg code = .ok none) :
    step s = .next { s with stim := rest } := by
  simp only [step, fetch, if_pos hok, hstim, hcall]

theorem decodeCall_of_refused {cfg : Config} {code : List Byte} {e : DecodeError} {r : Refusal}
    (hdecode : decode cfg code = .error e) (he : callRefusal e = some r) : decodeCall cfg code = .error r := by
  simp only [decodeCall, hdecode, he]

theorem decodeCall_of_notRefused {cfg : Config} {code : List Byte} {e : DecodeError}
    (hdecode : decode cfg code = .error e) (he : callRefusal e = none) : decodeCall cfg code = .ok none := by
  simp only [decodeCall, hdecode, he]

theorem decodeCall_of_leftover {cfg : Config} {code more : List Byte} {i : Instr}
    (hdecode : decode cfg code = .ok (i, more)) (hmore : more ≠ []) : decodeCall cfg code = .ok none := by
  obtain ⟨b, bs, rfl⟩ := List.exists_cons_of_ne_nil hmore
  simp only [decodeCall, hdecode]

/-- Only an operand outside its type is refused (R46, R60, R196). -/
theorem callRefusal_eq_none {e : DecodeError} (hlen : e ≠ .lengthRange) (hid : ∀ id, e ≠ .identifierRange id)
    (hdescriptor : e ≠ .descriptorRange) : callRefusal e = none := by
  cases e with
  | lengthRange => exact absurd rfl hlen
  | identifierRange id => exact absurd rfl (hid id)
  | descriptorRange => exact absurd rfl hdescriptor
  | _ => rfl

/-- Settles O60: `callRefusal` names the three refusals, and every other code asks for nothing. -/
theorem callsOutsideTheOperationsRunNothing : Obligations.CallsOutsideTheOperationsRunNothing := by
  intro s code inp rest hok hstim
  have hrefused {e : DecodeError} {r : Refusal} (hdecode : decode s.cfg code = .error e)
      (he : callRefusal e = some r) : step s = .refused r :=
    step_of_refusedCall hok hstim (decodeCall_of_refused hdecode he)
  refine ⟨fun hdecode => hrefused hdecode rfl, fun id hdecode => hrefused hdecode rfl,
    fun hdecode => hrefused hdecode rfl, fun e hdecode hlen hid hdescriptor => ?_, fun i more hdecode hmore => ?_⟩
  · exact step_of_idleCall hok hstim (decodeCall_of_notRefused hdecode (callRefusal_eq_none hlen hid hdescriptor))
  · exact step_of_idleCall hok hstim (decodeCall_of_leftover hdecode hmore)

end Sys2Proof.Machine
end

section
/-! PROOFS. RESET as a function of the configuration and the line-up (R210, R211), and the first pass after it
(R213). -/

namespace Sys2Proof.Machine

/-! ### RESET -/

theorem exec_reset (s : State) : exec .reset s = .next (resetStep s) := rfl

/-- RESET rebuilds the state from the configuration and the line-up alone (R210). -/
theorem resetStep_congr {s u : State} (hcfg : s.cfg = u.cfg) (hstim : s.stim = u.stim) (hdraws : s.draws = u.draws) :
    resetStep s = resetStep u := by
  rw [resetStep, resetStep, hcfg, hstim, hdraws]

/-- Settles O44: RESET reads three fields, keeps them, and every other field has its value of `resetWith`. -/
theorem resetGivesTheResetValues : Obligations.ResetGivesTheResetValues := by
  refine ⟨fun s u hcfg hstim hdraws => ?_, fun s => ⟨resetStep s, exec_reset s, ?_⟩⟩
  · rw [exec_reset, exec_reset, resetStep_congr hcfg hstim hdraws]
  · exact ⟨rfl, rfl, rfl, rfl, rfl, rfl, rfl, rfl, rfl⟩

/-! ### The first pass after reset -/

/-- Measured from tick 0, `elapsed` is the tick itself (R150, R151, R213). -/
theorem fires_elapsedTicks_zero (now : Tick) : fires (elapsedTicks now 0) = true ↔ 1001 ≤ now.toNat := by
  rw [elapsedTicks, sub_zero, fires, decide_eq_true_eq]
  exact Nat.lt_iff_add_one_le

/-- A PASS with neither `'v'` nor `KEY_DREQ` transmits the heartbeat where the scheduler fires, and nothing else
(R157). -/
theorem passStep_tx_of_otherKey {s : State} (hok : s.cfg.ok = true) (hp : s.cmdPhase = .top)
    (ht : InputTyped s.cfg s.inp) (hv : s.inp.key ≠ some 0x76) (hdreq : s.inp.key ≠ some s.cfg.keyDreq) :
    (passStep s).out.tx =
      if fires (elapsedTicks s.inp.now s.lastFireTick) then heartbeatFrames s.cfg s.vcuState else [] := by
  obtain ⟨-, -, htx, -⟩ := passStep_outputs hok hp ht
  rw [htx, if_neg hdreq, List.nil_append, passFires, decide_eq_true hv, Bool.true_and]

/-- Settles O58: the lined-up step is a PASS on the reset values, which measures from tick 0. The mode NONE needs no
exception: it has no heartbeat frame. -/
theorem firstHeartbeatAfterReset : Obligations.FirstHeartbeatAfterReset := by
  intro cfg inp hok hlast _ ht hv hdreq
  have htx := passStep_tx_of_otherKey (s := (withIterations (State.resetWith cfg) []).withInp inp) hok rfl ht hv hdreq
  refine ⟨_, step_withIterations (s := State.resetWith cfg) [] hok ht, ?_⟩
  simp only [← fires_elapsedTicks_zero, ← hlast]
  exact htx

end Sys2Proof.Machine
end

section
/-! PROOFS. The call code decodes to its operation (log entry 5): each reader takes off the bytes its writer puts on,
and each row's operands pass the checks of its form. -/

namespace Sys2Proof

/-! ### Readers take off what writers put on -/

theorem Form.ofByte_byte (f : Form) : Form.ofByte f.byte = some f := by cases f <;> rfl

theorem FunctionName.ofByte_byte (f : FunctionName) : FunctionName.ofByte f.byte = some f := by cases f <;> rfl

@[simp] theorem withByte_cons (b : Byte) (rest : List Byte) (k : Byte → List Byte → Decoded) :
    withByte (b :: rest) k = k b rest := rfl

theorem withBE_beBytes {n v : Nat} (hv : v < 256 ^ n) (rest : List Byte) (k : Nat → List Byte → Decoded) :
    withBE n (beBytes n v ++ rest) k = k v rest := by
  rw [withBE, readBE_beBytes n v rest hv]

@[simp] theorem withWord_wordBytes (w : Word) (rest : List Byte) (k : Word → List Byte → Decoded) :
    withWord (wordBytes w ++ rest) k = k w rest := by
  rw [withWord, wordBytes, withBE_beBytes w.isLt, BitVec.ofNat_toNat, BitVec.setWidth_eq]

theorem checked_of_wf {cfg : Config} {i : Instr} (hwf : i.wf cfg = true) (e : DecodeError) (rest : List Byte) :
    checked cfg i e rest = .ok (i, rest) := if_pos hwf

theorem functionCode_append (f : FunctionName) (bs rest : List Byte) :
    functionCode f bs ++ rest = functionCode f (bs ++ rest) := rfl

/-- The format byte selects the form. -/
theorem decode_formCode (cfg : Config) (f : Form) (bs rest : List Byte) :
    decode cfg (formCode f bs ++ rest) = decodeForm cfg f (bs ++ rest) := by
  rw [formCode, List.cons_append, decode, Form.ofByte_byte]

/-- The operation number selects the function (R81). -/
theorem decode_functionCode (cfg : Config) (f : FunctionName) (bs rest : List Byte) :
    decode cfg (functionCode f bs ++ rest) = decodeFunction cfg f (bs ++ rest) := by
  rw [functionCode, decode_formCode, decodeForm, List.cons_append, withByte_cons, FunctionName.ofByte_byte]

/-! ### Identifiers (R92) -/

/-- An identifier of `ID_WIDTH` bits fits the whole bytes its code gives it. -/
theorem lt_of_idBytes {cfg : Config} {id : Nat} (hid : id < 2 ^ cfg.idWidth) : id < 256 ^ idBytes cfg := by
  have hbits : cfg.idWidth ≤ 8 * idBytes cfg := by rw [idBytes]; omega
  calc id < 2 ^ cfg.idWidth := hid
    _ ≤ 2 ^ (8 * idBytes cfg) := Nat.pow_le_pow_right (by decide) hbits
    _ = 256 ^ idBytes cfg := Nat.pow_mul 2 8 _

theorem decode_identCode {cfg : Config} {id : Nat} (hid : id < 2 ^ cfg.idWidth) (rest : List Byte) :
    decode cfg (identCode cfg id ++ rest) = .ok (decodeIdent cfg id, rest) := by
  rw [identCode, decode_formCode, decodeForm, withBE_beBytes (lt_of_idBytes hid), if_pos hid]

/-- The code of a received identifier selects that identifier's row: no row above it has the same identifier. -/
theorem decode_receivedIds {cfg : Config} (hok : cfg.ok = true) (rest : List Byte) :
    decode cfg (identCode cfg cfg.idBmsHeartbeat ++ rest) = .ok (.routeBmsHeartbeat, rest) ∧
    decode cfg (identCode cfg cfg.idBmsDischargeResponse ++ rest) = .ok (.routeBmsDischargeResponse, rest) ∧
    decode cfg (identCode cfg cfg.idBmsPackStatus ++ rest) = .ok (.routeBmsPackStatus, rest) ∧
    decode cfg (identCode cfg cfg.idBmsCellTemps ++ rest) = .ok (.routeBmsCellTemps, rest) ∧
    decode cfg (identCode cfg cfg.idBmsErrors ++ rest) = .ok (.routeBmsErrors, rest) := by
  obtain ⟨hnodup, hwidth⟩ := Config.ids_of_ok hok
  obtain ⟨h1, h2, h3, h4, h5, -⟩ := (forall_allIds_lt_iff cfg _).1 hwidth
  obtain ⟨n12, n13, n14, n15, n23, n24, n25, n34, n35, n45⟩ := (receivedIds_nodup_iff cfg).1 hnodup
  rw [decode_identCode h1, decode_identCode h2, decode_identCode h3, decode_identCode h4, decode_identCode h5]
  simp [decodeIdent, n12.symm, n13.symm, n14.symm, n15.symm, n23.symm, n24.symm, n25.symm, n34.symm, n35.symm,
    n45.symm]

theorem decodeIdent_of_not_received {cfg : Config} {id : Nat} (hid : id ∉ receivedIds cfg) :
    decodeIdent cfg id = .routeUnknown id := by
  simp only [receivedIds, List.mem_cons, List.not_mem_nil, or_false, not_or] at hid
  obtain ⟨h1, h2, h3, h4, h5⟩ := hid
  rw [decodeIdent, if_neg h1, if_neg h2, if_neg h3, if_neg h4, if_neg h5]

/-! ### Keys, command bytes and packed words (R67, R76, R77, R114, R115) -/

theorem decode_keyTop (cfg : Config) (c : Byte) (rest : List Byte) :
    decode cfg (formCode .keyTop [c] ++ rest) = .ok (decodeTopKey cfg c, rest) := by
  rw [decode_formCode, decodeForm, List.singleton_append, withByte_cons]

theorem decode_keyCfg (cfg : Config) (c : Byte) (rest : List Byte) :
    decode cfg (formCode .keyCfg [c] ++ rest) = .ok (decodeCfgKey c, rest) := by
  rw [decode_formCode, decodeForm, List.singleton_append, withByte_cons]

theorem decode_vcuHeartbeatCmd (cfg : Config) (b : Byte) (rest : List Byte) :
    decode cfg (formCode .vcuHeartbeatCmd [b] ++ rest) = decodeHbCommand cfg b rest := by
  rw [decode_formCode, decodeForm, List.singleton_append, withByte_cons]

/-- The two heartbeat command bytes differ, so the second comparison is reached (R8, R112). -/
theorem hbCommandByte_discharge_ne_standby {cfg : Config} (hok : cfg.ok = true) :
    hbCommandByte cfg .discharge ≠ hbCommandByte cfg .standby := fun h =>
  Config.tags_of_ok hok (commandByte_inj h).symm

theorem decodePackedHb_packHeartbeat {cfg : Config} (hok : cfg.ok = true) (st : BitVec 3) (soc : BitVec 10)
    (rest : List Byte) : decodePackedHb cfg (packHeartbeat cfg st soc) rest = .ok (.encBmshb st soc, rest) := by
  rw [decodePackedHb, hbStateOf_packHeartbeat hok, hbSocOf_packHeartbeat hok, if_pos rfl]

theorem decodePackedDr_packDischargeResponse {cfg : Config} (hok : cfg.ok = true) (r : BitVec 1)
    (rest : List Byte) : decodePackedDr cfg (packDischargeResponse cfg r) rest = .ok (.encBmsdr r, rest) := by
  rw [decodePackedDr, drOf_packDischargeResponse hok, if_pos rfl]

/-! ### Operands of the functions -/

/-- A length or a bit number comes back from its byte. -/
theorem toNat_ofNat_byte {n : Nat} (hn : n < 256) : (BitVec.ofNat 8 n).toNat = n := by
  rw [BitVec.toNat_ofNat, Nat.mod_eq_of_lt hn]

theorem decode_encode_loadw {cfg : Config} {len : Nat} (hwf : (Instr.loadw len).wf cfg = true) (rest : List Byte) :
    decode cfg (encode cfg (.loadw len) ++ rest) = .ok (.loadw len, rest) := by
  have hlen : len ≤ 8 := of_decide_eq_true hwf
  rw [encode, decode_functionCode, decodeFunction, List.singleton_append, withByte_cons,
    toNat_ofNat_byte (by omega), checked_of_wf hwf]

theorem decode_encode_extract {cfg : Config} {w : Word} {start stop : Nat} {signed : Bool}
    (hwf : (Instr.extract w start stop signed).wf cfg = true) (rest : List Byte) :
    decode cfg (encode cfg (.extract w start stop signed) ++ rest) = .ok (.extract w start stop signed, rest) := by
  obtain ⟨hstart, hstop⟩ := (descriptorOk_iff start stop).1 hwf
  have hbit : ¬ 1 < (if signed then (1 : Byte) else 0).toNat := by cases signed <;> decide
  have hsigned : ((if signed then (1 : Byte) else 0) == 1) = signed := by cases signed <;> rfl
  rw [encode, decode_functionCode, decodeFunction, List.append_assoc, withWord_wordBytes]
  simp only [List.cons_append, withByte_cons, toNat_ofNat_byte (show start < 256 by omega),
    toNat_ofNat_byte (show stop < 256 by omega), hsigned, if_neg hbit, List.nil_append]
  exact checked_of_wf hwf _ rest

theorem decode_encode_classifyState (cfg : Config) (st : BitVec 3) (rest : List Byte) :
    decode cfg (encode cfg (.classifyState st) ++ rest) = .ok (.classifyState st, rest) := by
  have hpadded : ∀ st : BitVec 3, ¬ 7 < (st.setWidth 8).toNat ∧ (st.setWidth 8).setWidth 3 = st := by decide
  obtain ⟨hrange, hback⟩ := hpadded st
  rw [encode, decode_functionCode, decodeFunction, List.singleton_append, withByte_cons, if_neg hrange, hback]

theorem decode_encode_insert {cfg : Config} {w v : Word} {start stop : Nat}
    (hwf : (Instr.insert w start stop v).wf cfg = true) (rest : List Byte) :
    decode cfg (encode cfg (.insert w start stop v) ++ rest) = .ok (.insert w start stop v, rest) := by
  obtain ⟨hstart, hstop⟩ := (descriptorOk_iff start stop).1 hwf
  rw [encode, decode_functionCode, decodeFunction]
  simp only [List.append_assoc, withWord_wordBytes, List.cons_append, withByte_cons, List.nil_append,
    toNat_ofNat_byte (show start < 256 by omega), toNat_ofNat_byte (show stop < 256 by omega)]
  exact checked_of_wf hwf _ rest

theorem decode_encode_storew {cfg : Config} {w : Word} {len : Nat} (hwf : (Instr.storew w len).wf cfg = true)
    (rest : List Byte) : decode cfg (encode cfg (.storew w len) ++ rest) = .ok (.storew w len, rest) := by
  have hlen : len ≤ 8 := of_decide_eq_true hwf
  rw [encode, decode_functionCode, decodeFunction, List.append_assoc, withWord_wordBytes, List.singleton_append,
    withByte_cons, toNat_ofNat_byte (by omega), checked_of_wf hwf]

/-! ### Every row -/

theorem decode_encode {cfg : Config} (hok : cfg.ok = true) {i : Instr} (hwf : i.wf cfg = true) (rest : List Byte) :
    decode cfg (encode cfg i ++ rest) = .ok (i, rest) := by
  obtain ⟨hheartbeat, hresponse, hpack, htemps, herrors⟩ := decode_receivedIds hok rest
  cases i with
  | decHb w | decDr w => rw [encode, decode_formCode, decodeForm, withWord_wordBytes]
  | encHbcmdStandby => rw [encode, decode_vcuHeartbeatCmd, decodeHbCommand, if_pos rfl]
  | encHbcmdDischarge => rw [encode, decode_vcuHeartbeatCmd, decodeHbCommand,
      if_neg (hbCommandByte_discharge_ne_standby hok), if_pos rfl]
  | encDreq => rw [encode, decode_formCode, decodeForm, List.singleton_append, withByte_cons, decodeDreq, if_pos rfl]
  | encBmshb st soc => rw [encode, decode_formCode, decodeForm, withWord_wordBytes, decodePackedHb_packHeartbeat hok]
  | encBmsdr r => rw [encode, decode_formCode, decodeForm, withWord_wordBytes,
      decodePackedDr_packDischargeResponse hok]
  | routeBmsHeartbeat => exact hheartbeat
  | routeBmsDischargeResponse => exact hresponse
  | routeBmsPackStatus => exact hpack
  | routeBmsCellTemps => exact htemps
  | routeBmsErrors => exact herrors
  | routeUnknown id =>
    simp only [Instr.wf, Bool.and_eq_true, decide_eq_true_eq, Bool.not_eq_true', List.contains_eq_mem,
      decide_eq_false_iff_not] at hwf
    obtain ⟨hwidth, hother⟩ := hwf
    rw [encode, decode_identCode hwidth, decodeIdent_of_not_received hother]
  | cmdTopV => rw [encode, decode_keyTop, decodeTopKey, if_pos rfl]
  | cmdTopKeyDreq => rw [encode, decode_keyTop, decodeTopKey, if_neg (Config.key_of_ok hok), if_pos rfl]
  | cmdTopOther c =>
    simp only [Instr.wf, Bool.and_eq_true, bne_iff_ne] at hwf
    obtain ⟨hv, hdreq⟩ := hwf
    rw [encode, decode_keyTop, decodeTopKey, if_neg hv, if_neg hdreq]
  | cmdHbcfgS | cmdHbcfgD | cmdHbcfgN => exact decode_keyCfg cfg _ rest
  | cmdHbcfgOther c =>
    simp only [Instr.wf, Bool.and_eq_true, bne_iff_ne] at hwf
    obtain ⟨⟨hs, hd⟩, hn⟩ := hwf
    rw [encode, decode_keyCfg, decodeCfgKey, if_neg hs, if_neg hd, if_neg hn]
  | routeNone | cmdHbcfgNone | cmdTopNone => rw [encode, decode_formCode]; rfl
  | loadw len => exact decode_encode_loadw hwf rest
  | extract w start stop signed => exact decode_encode_extract hwf rest
  | classifyState st => exact decode_encode_classifyState cfg st rest
  | insert w start stop v => exact decode_encode_insert hwf rest
  | storew w len => exact decode_encode_storew hwf rest
  | cmdHbcfg _ | rxPhase | cmdPhase3 | render | schedCheck | schedCheckFire | txHb | txHbNone | pass | passResume
  | reset =>
    rw [encode, decode_functionCode]; rfl

end Sys2Proof

namespace Sys2Proof.Machine

/-- Settles O2, by `decode_encode`, row by row of the table. -/
theorem decodeOfEncodeIsTheOperation : Obligations.DecodeOfEncodeIsTheOperation := fun _ _ rest hok hwf =>
  decode_encode hok hwf rest

end Sys2Proof.Machine
end

section
/-! PROOFS. What decodes encodes back to the bytes it was decoded from: each reader says which bytes it took off, for
every configuration (log entry 5). -/

namespace Sys2Proof

/-- Every operation the answer names has `code` as its call code, followed by the bytes left over. -/
def NamesCode (cfg : Config) (code : List Byte) (d : Decoded) : Prop :=
  ∀ i rest, d = .ok (i, rest) → encode cfg i ++ rest = code

/-! ### The readers -/

theorem namesCode_ok {cfg : Config} {code rest : List Byte} {i : Instr} (hcode : encode cfg i ++ rest = code) :
    NamesCode cfg code (.ok (i, rest)) := by
  intro j rest' h
  cases h
  exact hcode

theorem namesCode_error (cfg : Config) (code : List Byte) (e : DecodeError) : NamesCode cfg code (.error e) := nofun

theorem namesCode_ite {cfg : Config} {code : List Byte} {c : Prop} [Decidable c] {d d' : Decoded}
    (hd : c → NamesCode cfg code d) (hd' : ¬ c → NamesCode cfg code d') :
    NamesCode cfg code (if c then d else d') := by
  split
  · exact hd ‹_›
  · exact hd' ‹_›

theorem namesCode_checked {cfg : Config} {code rest : List Byte} {i : Instr} (e : DecodeError)
    (hcode : encode cfg i ++ rest = code) : NamesCode cfg code (checked cfg i e rest) :=
  namesCode_ite (fun _ => namesCode_ok hcode) fun _ => namesCode_error cfg code e

theorem namesCode_withBE {cfg : Config} {code : List Byte} {n : Nat} {bs : List Byte}
    {k : Nat → List Byte → Decoded}
    (hk : ∀ v rest, v < 256 ^ n → bs = beBytes n v ++ rest → NamesCode cfg code (k v rest)) :
    NamesCode cfg code (withBE n bs k) := by
  unfold withBE
  split
  · exact namesCode_error cfg code _
  · next v rest hread =>
    obtain ⟨hv, hbs⟩ := beBytes_of_readBE n bs rest v hread
    exact hk v rest hv hbs.symm

theorem namesCode_withWord {cfg : Config} {code bs : List Byte} {k : Word → List Byte → Decoded}
    (hk : ∀ w rest, bs = wordBytes w ++ rest → NamesCode cfg code (k w rest)) :
    NamesCode cfg code (withWord bs k) := by
  refine namesCode_withBE fun v rest hv hbs => hk (BitVec.ofNat 64 v) rest ?_
  have hword : v < 2 ^ 64 := hv
  rw [hbs, wordBytes, BitVec.toNat_ofNat, Nat.mod_eq_of_lt hword]

theorem namesCode_withByte {cfg : Config} {code bs : List Byte} {k : Byte → List Byte → Decoded}
    (hk : ∀ b rest, bs = b :: rest → NamesCode cfg code (k b rest)) : NamesCode cfg code (withByte bs k) := by
  cases bs with
  | nil => exact namesCode_error cfg code _
  | cons b rest => exact hk b rest rfl

/-! ### The rows the block's own decoders select -/

theorem encode_decodeIdent (cfg : Config) (id : Nat) : encode cfg (decodeIdent cfg id) = identCode cfg id := by
  unfold decodeIdent
  split_ifs with hheartbeat hresponse hpack htemps herrors
  · rw [encode, hheartbeat]
  · rw [encode, hresponse]
  · rw [encode, hpack]
  · rw [encode, htemps]
  · rw [encode, herrors]
  · rfl

theorem encode_decodeTopKey (cfg : Config) (c : Byte) : encode cfg (decodeTopKey cfg c) = formCode .keyTop [c] := by
  unfold decodeTopKey
  split_ifs with hv hdreq
  · rw [encode, hv]
  · rw [encode, hdreq]
  · rfl

theorem encode_decodeCfgKey (cfg : Config) (c : Byte) : encode cfg (decodeCfgKey c) = formCode .keyCfg [c] := by
  unfold decodeCfgKey
  split_ifs with hs hd hn
  · rw [encode, hs]
  · rw [encode, hd]
  · rw [encode, hn]
  · rfl

theorem namesCode_decodeHbCommand (cfg : Config) (b : Byte) (rest : List Byte) :
    NamesCode cfg (formCode .vcuHeartbeatCmd (b :: rest)) (decodeHbCommand cfg b rest) :=
  namesCode_ite (fun hb => namesCode_ok (by rw [hb]; rfl)) fun _ =>
    namesCode_ite (fun hb => namesCode_ok (by rw [hb]; rfl)) fun _ => namesCode_error _ _ _

theorem namesCode_decodeDreq (cfg : Config) (b : Byte) (rest : List Byte) :
    NamesCode cfg (formCode .vcuDischargeRequest (b :: rest)) (decodeDreq cfg b rest) :=
  namesCode_ite (fun hb => namesCode_ok (by rw [hb]; rfl)) fun _ => namesCode_error _ _ _

/-- A packed word is decoded only where packing its fields gives it back (R114). -/
theorem namesCode_decodePackedHb (cfg : Config) (w : Word) (rest : List Byte) :
    NamesCode cfg (formCode .bmsHeartbeatPacked (wordBytes w ++ rest)) (decodePackedHb cfg w rest) :=
  namesCode_ite (fun hpack => namesCode_ok (by rw [encode, hpack]; rfl)) fun _ => namesCode_error _ _ _

theorem namesCode_decodePackedDr (cfg : Config) (w : Word) (rest : List Byte) :
    NamesCode cfg (formCode .bmsDischargeResponsePacked (wordBytes w ++ rest)) (decodePackedDr cfg w rest) :=
  namesCode_ite (fun hpack => namesCode_ok (by rw [encode, hpack]; rfl)) fun _ => namesCode_error _ _ _

/-! ### The padded operands of the functions -/

/-- A signedness byte of 0 or 1 is the byte its flag is written as. -/
theorem signedByte_eq {b : Byte} (hb : ¬ 1 < b.toNat) : (if (b == 1) = true then (1 : Byte) else 0) = b := by
  revert b
  decide

/-- A 3-bit code padded to a byte loses nothing. -/
theorem setWidth_setWidth_of_le_seven {b : Byte} (hb : ¬ 7 < b.toNat) : (b.setWidth 3).setWidth 8 = b := by
  apply BitVec.eq_of_toNat_eq
  rw [BitVec.toNat_setWidth, BitVec.toNat_setWidth]
  omega

/-! ### Every code -/

theorem namesCode_decodeFunction (cfg : Config) (f : FunctionName) (bs : List Byte) :
    NamesCode cfg (functionCode f bs) (decodeFunction cfg f bs) := by
  cases f with
  | loadw =>
    refine namesCode_withByte fun len rest hbs => namesCode_checked _ ?_
    rw [hbs, encode, BitVec.ofNat_toNat, BitVec.setWidth_eq]
    rfl
  | extract =>
    rw [decodeFunction]
    refine namesCode_withWord fun w _ hbs => namesCode_withByte fun start _ hstart => namesCode_withByte
      fun stop _ hstop => namesCode_withByte fun signed rest hsigned => namesCode_ite (fun _ => namesCode_error _ _ _)
      fun hbit => namesCode_checked _ ?_
    rw [hbs, hstart, hstop, hsigned, encode, signedByte_eq hbit, functionCode_append]
    simp only [BitVec.ofNat_toNat, BitVec.setWidth_eq, List.append_assoc, List.cons_append, List.nil_append]
  | classifyState =>
    refine namesCode_withByte fun st rest hbs => namesCode_ite (fun _ => namesCode_error _ _ _) fun hrange =>
      namesCode_ok ?_
    rw [hbs, encode, setWidth_setWidth_of_le_seven hrange]
    rfl
  | insert =>
    rw [decodeFunction]
    refine namesCode_withWord fun w _ hbs => namesCode_withByte fun start _ hstart => namesCode_withByte
      fun stop _ hstop => namesCode_withWord fun v rest hv => namesCode_checked _ ?_
    rw [hbs, hstart, hstop, hv, encode, functionCode_append]
    simp only [BitVec.ofNat_toNat, BitVec.setWidth_eq, List.append_assoc, List.cons_append, List.nil_append]
  | storew =>
    rw [decodeFunction]
    refine namesCode_withWord fun w _ hbs => namesCode_withByte fun len rest hlen => namesCode_checked _ ?_
    rw [hbs, hlen, encode, functionCode_append]
    simp only [BitVec.ofNat_toNat, BitVec.setWidth_eq, List.append_assoc, List.cons_append, List.nil_append]
  | cmdHbcfg =>
    refine namesCode_withByte fun c rest hbs => namesCode_ok ?_
    rw [hbs]
    rfl
  | rxPhase | cmdPhase3 | render | schedCheck | schedCheckFire | txHb | txHbNone | pass | passResume | reset =>
    exact namesCode_ok rfl

theorem FunctionName.byte_of_ofByte {b : Byte} {f : FunctionName} (h : FunctionName.ofByte b = some f) :
    f.byte = b := by
  rw [FunctionName.ofByte] at h
  exact beq_iff_eq.1 (List.find?_some h :)

theorem Form.byte_of_ofByte {b : Byte} {f : Form} (h : Form.ofByte b = some f) : f.byte = b := by
  rw [Form.ofByte] at h
  exact beq_iff_eq.1 (List.find?_some h :)

theorem namesCode_decodeForm (cfg : Config) (f : Form) (bs : List Byte) :
    NamesCode cfg (formCode f bs) (decodeForm cfg f bs) := by
  cases f with
  | bmsHeartbeat | bmsDischargeResponse =>
    rw [decodeForm]
    exact namesCode_withWord fun w rest hbs => namesCode_ok (by rw [hbs]; rfl)
  | vcuHeartbeatCmd => exact namesCode_withByte fun b rest hbs => hbs ▸ namesCode_decodeHbCommand cfg b rest
  | vcuDischargeRequest => exact namesCode_withByte fun b rest hbs => hbs ▸ namesCode_decodeDreq cfg b rest
  | bmsHeartbeatPacked =>
    rw [decodeForm]
    exact namesCode_withWord fun w rest hbs => hbs ▸ namesCode_decodePackedHb cfg w rest
  | bmsDischargeResponsePacked =>
    rw [decodeForm]
    exact namesCode_withWord fun w rest hbs => hbs ▸ namesCode_decodePackedDr cfg w rest
  | ident =>
    refine namesCode_withBE fun id rest _ hbs => namesCode_ite (fun _ => namesCode_ok ?_) fun _ =>
      namesCode_error _ _ _
    rw [encode_decodeIdent, hbs]
    rfl
  | keyTop => exact namesCode_withByte fun c rest hbs => namesCode_ok (by rw [encode_decodeTopKey, hbs]; rfl)
  | keyCfg => exact namesCode_withByte fun c rest hbs => namesCode_ok (by rw [encode_decodeCfgKey, hbs]; rfl)
  | noFrame | noCharCfg | noCharTop => exact namesCode_ok rfl
  | function =>
    refine namesCode_withByte fun b rest hbs => ?_
    cases hf : FunctionName.ofByte b with
    | none => exact namesCode_error _ _ _
    | some g =>
      rw [hbs, ← FunctionName.byte_of_ofByte hf]
      exact namesCode_decodeFunction cfg g rest

theorem namesCode_decode (cfg : Config) (bs : List Byte) : NamesCode cfg bs (decode cfg bs) := by
  cases bs with
  | nil => exact namesCode_error _ _ _
  | cons b bs =>
    rw [decode]
    cases hf : Form.ofByte b with
    | none => exact namesCode_error _ _ _
    | some f =>
      rw [← Form.byte_of_ofByte hf]
      exact namesCode_decodeForm cfg f bs

/-- The call code of what decodes, and the bytes left over, are the bytes decoded. -/
theorem encode_append_of_decode {cfg : Config} {bs rest : List Byte} {i : Instr}
    (h : decode cfg bs = .ok (i, rest)) : encode cfg i ++ rest = bs :=
  namesCode_decode cfg bs i rest h

end Sys2Proof

namespace Sys2Proof.Machine

/-- Settles O3: `decode_wf` for the operands, `encode_append_of_decode` for the bytes. -/
theorem decodedIsWellFormedAndCanonical : Obligations.DecodedIsWellFormedAndCanonical := fun _ _ _ _ h =>
  ⟨decode_wf h, encode_append_of_decode h⟩

end Sys2Proof.Machine
end

section
/-! PROOFS. TX_HB under either reading of D13 and D14 (R152, R153, U21); the words written out in the table (R65, R67,
R76, R77); and the step that runs what a call code decodes to (log entries 5, 7). -/

namespace Sys2Proof.Machine

/-! ### TX_HB under either reading -/

/-- `LAST_FIRE_TICK` after TX_HB, as the two Booleans say (D13, D14). -/
theorem txHb_lastFireTick {s : State} (hfire : s.out.hbFire = true) : (txHb s).lastFireTick =
    if s.vcuState = .none then (if s.cfg.updateTickInNone = true then s.inp.now else s.lastFireTick)
    else if s.inp.txFaultHb = 0 ∨ s.cfg.updateTickOnFault = true then s.inp.now else s.lastFireTick := by
  rw [txHb_eq, if_pos hfire]
  by_cases hmode : s.vcuState = .none
  · rw [if_pos hmode, if_pos hmode]
  · rw [if_neg hmode, if_neg hmode]

theorem txHb_rxBuf (s : State) : (txHb s).rxBuf = s.rxBuf := by
  rw [txHb_eq]
  split_ifs <;> rfl

/-- The NONE row latches that nothing is rendered, and stamps the tick only under D13's other reading (R153). -/
theorem txHbNone_of_fire {s : State} (hfire : s.out.hbFire = true) : txHbNone s = { s with
    lastFireTick := if s.cfg.updateTickInNone = true then s.inp.now else s.lastFireTick
    latch := { s.latch with rendered := none } } := by
  rw [txHbNone, if_pos hfire, skipHeartbeat, stampIf, State.withLatch_cfg]
  split <;> rfl

/-- Settles O38: both operations answer a next state, whose tick and frame are read off `txHb_eq` and
`txHbNone_of_fire`. -/
theorem txHbUnderEitherReading : Obligations.TxHbUnderEitherReading := by
  intro s
  obtain ⟨hmode, hphase⟩ := txHb_commandRegisters s
  refine ⟨⟨txHb s, exec_txHb s, txHb_lastFireTick, hmode, hphase, txHb_rxBuf s, txHb_cfg s⟩, fun hfire => ?_⟩
  rw [exec_txHbNone, txHbNone_of_fire hfire]

/-! ### Words written out in the table -/

/-- A 64-bit word is read as the payload of a received BMS heartbeat (log entry 6). -/
theorem decodeTableWord_heartbeat (w : Nat) : decodeTableWord 64 w = some (.decHb (BitVec.ofNat 64 w)) := by
  have hdecode := decode_encode (cfg := Config.default) (i := .decHb (BitVec.ofNat 64 w)) (by decide) rfl []
  rw [encode, List.append_nil] at hdecode
  rw [decodeTableWord, tableCode, if_neg (by decide), if_pos rfl, hdecode]

/-- Settles O1: each 8-bit word is looked up in the key tables and among the command bytes of the default
configuration; the 64-bit word is a heartbeat's. -/
theorem tableWordsDecode : Obligations.TableWordsDecode := by
  refine ⟨?_, ?_, ?_, ?_, ?_, ?_, ?_, decodeTableWord_heartbeat _⟩
  all_goals decide

/-! ### The step that runs a call -/

/-- A lined-up call runs the operation its code decodes to, once the call is taken off and its answers are in place. -/
theorem step_of_decodedCall {s : State} {code : List Byte} {inp : Input} {rest : List Stimulus} {i : Instr}
    (hok : s.cfg.ok = true) (hstim : s.stim = .call code inp :: rest) (hdecode : decode s.cfg code = .ok (i, [])) :
    step s = exec i { s with stim := rest, inp := inp } := by
  simp only [step, fetch, if_pos hok, hstim, decodeCall_some.2 hdecode]

/-- Settles O4, by `step_of_decodedCall`. -/
theorem stepRunsTheDecodedCall : Obligations.StepRunsTheDecodedCall := fun _ _ _ _ _ hok hstim hdecode =>
  step_of_decodedCall hok hstim hdecode

/-- Settles O5: the placed call carries the answers already in place, so taking it off gives back the state before. -/
theorem stepRunsThePlacedTableWord : Obligations.StepRunsThePlacedTableWord := fun s _ _ _ hok hdecode =>
  step_of_decodedCall (s := s.withFetchWord _ _) hok rfl hdecode

end Sys2Proof.Machine
end
